-- ==== Sys2Proof/Word.lean ====
section
/-! DEFINITION. Widths of the block's words (00_scope.md R10), fixed-length byte buffers, and the text
source named by bit S of a command word (30_encoding.md R85). -/

namespace Sys2Proof

/-- A byte is 8 bits (R10). -/
abbrev Byte := BitVec 8

/-- A host access and a command word are 32 bits (R68, R85). -/
abbrev Word := BitVec 32

/-- A byte offset in the 4096-byte host register window (20_memory.md R60). -/
abbrev Offset := BitVec 12

/-- A byte buffer of a fixed length: the framebuffer, MSG, TEXT, TXBUF and radio payloads (10_state.md
R26, R29, R31, R32). -/
abbrev Buf (n : Nat) := Vector Byte n

/-- The buffer of length `n` whose byte `i` is `f i`. -/
def bufOf (n : Nat) (f : Nat → Byte) : Buf n :=
  Vector.mk ((List.range n).map f).toArray (by simp)

/-- Bit S of TEXT (R85): the string comes from TEXT RAM (S = 0) or from MSG (S = 1). -/
inductive TextSource where
  | textRam
  | msg
  deriving DecidableEq, Repr, Inhabited

end Sys2Proof
end

