-- ==== Sys2Proof/Syntax.lean ====
section
/-! DEFINITION. The seventeen commands of the block, one constructor for each row of the opcode table
(30_encoding.md R86). A command word holds only OP, A and S; numeric operands are in ARG0 to ARG3, which
the engine latch copies (10_state.md R25), so they are no part of the syntax. -/

namespace Sys2Proof

/-- A command (R86). `on` is bit A of PSET and LINE, `level` bit A of ARMWAKE, `src` bit S of TEXT (R88). -/
inductive Instr where
  /-- NOP, R94. -/
  | nop
  /-- CLEAR, R108. -/
  | clear
  /-- PSET, R109. -/
  | pset (on : Bool)
  /-- PGET, R111. -/
  | pget
  /-- LINE, R114. -/
  | line (on : Bool)
  /-- GLYPH, R123. -/
  | glyph
  /-- TEXT, R128. -/
  | text (src : TextSource)
  /-- DINIT, R136. -/
  | dinit
  /-- PUSH, R140. -/
  | push
  /-- RINIT, R152. -/
  | rinit
  /-- LISTEN, R154. -/
  | listen
  /-- UNLISTEN, R155. -/
  | unlisten
  /-- POLL, R156. -/
  | poll
  /-- RECV, R158. -/
  | recv
  /-- XMIT, R162. -/
  | xmit
  /-- EVENT, R166. -/
  | event
  /-- ARMWAKE, R170. -/
  | armwake (level : Bool)
  deriving DecidableEq, Repr, Inhabited

end Sys2Proof
end

