-- ==== Sys2Proof/Decode.lean ====
section
/-! DEFINITION. Decoding of a 32-bit command word, total, with the two rejections the spec names (30_encoding.md R85,
R86, R89), and the encoder (R91). -/

namespace Sys2Proof

/-- Why a command word is no command (R89). -/
inductive DecodeError where
  /-- Error code 1: OP is not in the table of R86. -/
  | illegal
  /-- Error code 2: OP is legal and a bit it reserves is 1. -/
  | rsvd
  deriving DecidableEq, Repr

/-- OP, bits 7:0 (R85). -/
def opField (w : Word) : Nat := (w.extractLsb' 0 8).toNat

/-- A, bit 8 (R85). -/
def aField (w : Word) : Bool := w.getLsbD 8

/-- S, bit 9 (R85), as a TEXT source (R88). -/
def sField (w : Word) : TextSource := if w.getLsbD 9 then .msg else .textRam

/-- The bits an opcode reserves when it uses neither A nor S (R86). -/
def reservedAll : Word := 0xFFFFFF00#32

/-- The bits PSET, LINE and ARMWAKE reserve: all above OP but A (R86). -/
def reservedButA : Word := 0xFFFFFE00#32

/-- The bits TEXT reserves: all above OP but S (R86). -/
def reservedButS : Word := 0xFFFFFD00#32

/-- A command whose word must have 0 in the bits of `reserved` (R89). -/
def withReserved (reserved w : Word) (i : Instr) : Except DecodeError Instr :=
  if w &&& reserved = 0#32 then .ok i else .error .rsvd

/-- The command a word stands for (R86), or the rejection R89 gives it. -/
def decode (w : Word) : Except DecodeError Instr :=
  match opField w with
  | 0x00 => withReserved reservedAll w .nop
  | 0x10 => withReserved reservedAll w .clear
  | 0x11 => withReserved reservedButA w (.pset (aField w))
  | 0x12 => withReserved reservedAll w .pget
  | 0x13 => withReserved reservedButA w (.line (aField w))
  | 0x14 => withReserved reservedAll w .glyph
  | 0x15 => withReserved reservedButS w (.text (sField w))
  | 0x20 => withReserved reservedAll w .dinit
  | 0x21 => withReserved reservedAll w .push
  | 0x30 => withReserved reservedAll w .rinit
  | 0x31 => withReserved reservedAll w .listen
  | 0x32 => withReserved reservedAll w .unlisten
  | 0x33 => withReserved reservedAll w .poll
  | 0x34 => withReserved reservedAll w .recv
  | 0x35 => withReserved reservedAll w .xmit
  | 0x36 => withReserved reservedAll w .event
  | 0x40 => withReserved reservedButA w (.armwake (aField w))
  | _ => .error .illegal

/-- Whether a word is a legal command (R90). -/
def isCommand (w : Word) : Bool :=
  match decode w with
  | .ok _ => true
  | .error _ => false

/-- Bit A in its place (R85). -/
def aBit (b : Bool) : Word := if b then 0x100#32 else 0#32

/-- Bit S in its place (R85). -/
def sBit (src : TextSource) : Word :=
  match src with
  | .textRam => 0#32
  | .msg => 0x200#32

/-- The command word of a command (R91). -/
def encode : Instr → Word
  | .nop => 0x00000000#32
  | .clear => 0x00000010#32
  | .pset on => 0x00000011#32 ||| aBit on
  | .pget => 0x00000012#32
  | .line on => 0x00000013#32 ||| aBit on
  | .glyph => 0x00000014#32
  | .text src => 0x00000015#32 ||| sBit src
  | .dinit => 0x00000020#32
  | .push => 0x00000021#32
  | .rinit => 0x00000030#32
  | .listen => 0x00000031#32
  | .unlisten => 0x00000032#32
  | .poll => 0x00000033#32
  | .recv => 0x00000034#32
  | .xmit => 0x00000035#32
  | .event => 0x00000036#32
  | .armwake level => 0x00000040#32 ||| aBit level

/-- The command the decoder reads from a table row's bits: a command is one 32-bit word (R85), bit 0 its least
significant bit, and bits from `nbits` on are 0. -/
def decodeTableWord (nbits w : Nat) : Option Instr :=
  match decode (BitVec.ofNat 32 (w % 2 ^ nbits)) with
  | .ok i => some i
  | .error _ => none

end Sys2Proof
end

