-- ==== Sys2Proof/Config.lean ====
section
/-! DEFINITION. The implementation parameters of 00_scope.md R6 (fixed for the life of the block, R7) and the
free values: opaque constants with no body, for what the spec says is drawn (R12) or leaves OPEN. Nothing can be
proved of an opaque constant's value, so a claim holds for every choice.

The OPEN ranges of R6 are kept by the shape of the opaque constants (GLYPH_WIDTH in 1..16, GLYPH_PAD in 0..15,
RX_DEPTH at least 1). -/

namespace Sys2Proof

/-- The outcome of one transmission (42_radio_framer.md R163). -/
inductive SendOutcome where
  | ack
  | maxRt
  | timeout
  deriving DecidableEq, Repr, Inhabited

/-- The draws RSEND takes (R163): which flag an earlier send still in flight latches (`earlierSent`: f_sent, else
f_failed), the outcome, and whether the outcome's flag stays latched. -/
structure SendDraws where
  earlierSent : Bool
  outcome : SendOutcome
  keep : Bool
  deriving DecidableEq, Repr, Inhabited

namespace Config

/-- WIDTH, in pixels (R6). -/
abbrev width : Nat := 128

/-- HEIGHT, in pixels (R6). -/
abbrev height : Nat := 32

/-- PAGES = HEIGHT / 8 (R6). -/
abbrev pages : Nat := 4

/-- FB_LEN = WIDTH * HEIGHT / 8 + 1 (R6). -/
abbrev fbLen : Nat := 513

/-- PAYLOAD_SIZE (R6). -/
abbrev payloadSize : Nat := 21

/-- TEXT_LEN (R6). -/
abbrev textLen : Nat := 32

/-- DATA_PREFIX (R6, D19): the value the spec supplies from general knowledge; UNVERIFIED by its source (log 18). -/
def dataPrefix : Byte := 0x40#8

/-- CMD_PREFIX (R6, D19); UNVERIFIED by the spec's source (log 18). -/
def cmdPrefix : Byte := 0x00#8

/-- DISP_ADDR (R6, D20); UNVERIFIED by the spec's source (log 18). -/
def dispAddr : BitVec 7 := 0x3C#7

/-- IRQ_ACTIVE_LOW (R6, D34); UNVERIFIED by the spec's source (log 18). -/
def irqActiveLow : Bool := true

/-- INIT_SEQ (41_display_transport.md R137): the thirteen commands in order, without the prefix; the byte values
are UNVERIFIED by the spec's source (log 18). -/
def initSeq : List (List Byte) :=
  [ [0xAE#8],
    [0xA8#8, 0x1F#8],
    [0xD3#8, 0x00#8],
    [0x40#8],
    [0xA1#8],
    [0xC8#8],
    [0xDA#8, 0x02#8],
    [0x81#8, 0x8F#8],
    [0x8D#8, 0x14#8],
    [0x20#8, 0x00#8],
    [0x21#8, 0x00#8, 0x7F#8],
    [0x22#8, 0x00#8, 0x03#8],
    [0xAF#8] ]

/-! ### OPEN parameters that behaviour depends on (R6; log 15, DESIGN CHOICE: the form) -/

/-- GLYPH_WIDTH is this plus one, so 1..16. -/
opaque glyphWidthLessOne : Fin 16

/-- GLYPH_PAD, 0..15. -/
opaque glyphPadding : Fin 16

/-- FONT: column `i` of the glyph for code 0x20 + `g`, as a function of `g` and `i` (10_state.md R33). -/
opaque fontColumn : Nat → Nat → Byte

/-- RX_DEPTH is this plus one, so at least 1. -/
opaque rxDepthLessOne : Nat

/-! ### OPEN parameters with no effect on state (R6, R138, R150, R207; log 17) -/

/-- NSB_BASE: the host address of offset 0 of the window (R60). -/
opaque nsbBase : Word

/-- BUS_HZ (R138). -/
opaque busHz : Nat

/-- TX_TIMEOUT_MS (R207). -/
opaque txTimeoutMs : Nat

/-- TURNAROUND_MS (R207). -/
opaque turnaroundMs : Nat

/-- RF_CHANNEL (R150). -/
opaque rfChannel : Nat

/-- RF_POWER (R150). -/
opaque rfPower : Nat

/-- RF_RATE (R150). -/
opaque rfRate : Nat

/-- TX_ADDR (R150). -/
opaque txAddr : List Byte

/-- RX_PIPE (R150). -/
opaque rxPipe : Nat

/-- RX_ADDR (R150). -/
opaque rxAddr : List Byte

/-- HEADER_TEXT of the reference host program (60_exceptions.md R203). -/
opaque headerText : List Byte

/-- READY_TEXT of the reference host program (R200). -/
opaque readyText : List Byte

/-! ### Draws (R12). The first argument of each is the number of the draw, `State.draws`. -/

/-- The drawn byte of FB at a reset, by its index 1..512 (R28; log 1). -/
opaque resetFb : Nat → Nat → Byte

/-- The drawn byte of MSG at a reset (R29; log 1). -/
opaque resetMsg : Nat → Nat → Byte

/-- The drawn byte of TEXT at a reset (R31; log 1). -/
opaque resetText : Nat → Nat → Byte

/-- The drawn byte of TXBUF at a reset (R32; log 1). -/
opaque resetTxbuf : Nat → Nat → Byte

/-- Whether the transceiver is present, drawn at power-on and constant from then on (R43; log 3). -/
opaque radioPresent : Bool

/-- The pin level at power-on when there is no transceiver (70_reset_and_hazards.md R221; log 3). -/
opaque pinAtPowerOn : Bool

/-- The draws of an RSEND (R163; log 13). -/
opaque sendDraws : Nat → SendDraws

/-- The 21 bytes an RREAD of an empty queue gives (R150, R159; log 14). -/
opaque emptyRead : Nat → Buf payloadSize

end Config

/-- The parameters the renderer and the receive queue depend on (R6), and the FONT table (10_state.md R33). The
spec lists FONT among the pieces of state a model must hold (R33, R45), so they stand in State, where no step
writes them (R7; log 16). -/
structure Params where
  /-- GLYPH_WIDTH, columns of a glyph, 1..16. -/
  glyphWidth : Nat
  /-- GLYPH_PAD, columns between glyphs, 0..15. -/
  glyphPad : Nat
  /-- FONT: 95 glyphs, for codes 0x20 to 0x7E in order, each of GLYPH_WIDTH column bytes. -/
  font : List (List Byte)
  /-- RX_DEPTH, the most payloads the receive queue holds, at least 1. -/
  rxDepth : Nat
  deriving DecidableEq, Repr

/-- The build's parameters (R6, R7): OPEN, so made of opaque constants. -/
def Config.params : Params where
  glyphWidth := Config.glyphWidthLessOne.val + 1
  glyphPad := Config.glyphPadding.val
  font := (List.range 95).map fun g =>
    (List.range (Config.glyphWidthLessOne.val + 1)).map fun i => Config.fontColumn g i
  rxDepth := Config.rxDepthLessOne + 1

end Sys2Proof
end

