-- ==== Sys2Proof/Machine/State.lean ====
section
/-! DEFINITION. The block's state (10_state.md), the RADIO and DISPLAY agents' state, and the environment's turns
still to come, as plain data; the reasons a step can stop; the state at power-on and reset. -/

namespace Sys2Proof.Machine

/-- A radio payload: PAYLOAD_SIZE bytes (00_scope.md R14). -/
abbrev Payload := Buf Config.payloadSize

/-- The error codes of ERR.CODE (60_exceptions.md R191). Codes 7 to 15 are never produced. -/
inductive ErrorCode where
  /-- 0, no error since ERR was cleared. -/
  | noError
  /-- 1, an opcode not in the table. -/
  | illegal
  /-- 2, a reserved bit set. -/
  | rsvd
  /-- 3, a write to CMD, TEXT or TXBUF while BUSY. -/
  | busy
  /-- 4, PUSH before DINIT, or a radio command before RINIT. -/
  | notInit
  /-- 5, a second DINIT or RINIT. -/
  | oneshot
  /-- 6, a radio command after a failed RINIT. -/
  | radioDown
  deriving DecidableEq, Repr

/-- ERR (10_state.md R24). -/
structure Err where
  code : ErrorCode
  more : Bool
  deriving DecidableEq, Repr

/-- STATUS (10_state.md R23), a field for each bit; bits 31:15 read 0 and hold nothing. -/
structure Status where
  busy : Bool
  done : Bool
  dispInit : Bool
  radioInit : Bool
  radioFail : Bool
  listening : Bool
  evSent : Bool
  evFailed : Bool
  evReady : Bool
  txOk : Bool
  pixel : Bool
  ping : Bool
  wakeArmed : Bool
  wakePending : Bool
  wakeLevel : Bool
  deriving DecidableEq, Repr

/-- The engine latch's contents (10_state.md R25): the accepted word C and the copies A0 to A3. -/
structure Latch where
  word : Word
  a0 : BitVec 16
  a1 : BitVec 16
  a2 : BitVec 16
  a3 : BitVec 16
  deriving DecidableEq, Repr

/-- The two modes RMODE sets (42_radio_framer.md R150). -/
inductive LinkMode where
  | rx
  | tx
  deriving DecidableEq, Repr

/-- The transceiver's mode (10_state.md R40). -/
inductive RadioMode where
  | off
  | rx
  | tx
  deriving DecidableEq, Repr

/-- The RADIO agent's abstract state (10_state.md R40), and `floatPin`, the drawn level of the IRQ pin that stands
while no transceiver is present (R42). -/
structure Radio where
  present : Bool
  cfg : Bool
  mode : RadioMode
  fSent : Bool
  fFailed : Bool
  fReady : Bool
  rxq : List Payload
  txp : Bool
  floatPin : Bool
  deriving DecidableEq, Repr

/-- An addressed write transaction on the display bus (41_display_transport.md R135). -/
structure BusWrite where
  addr : BitVec 7
  bytes : List Byte
  deriving DecidableEq, Repr

/-- An entry of `rlog`: a radio operation and its result (42_radio_framer.md R150). -/
inductive RadioEntry where
  | rcfg (ok : Bool)
  | rmode (m : LinkMode)
  | rflags (sent failed ready : Bool)
  | rread (p : Payload)
  | rsend (p : Payload) (o : SendOutcome)
  deriving DecidableEq, Repr

/-- The radio operations that have a precondition (42_radio_framer.md R150). -/
inductive RadioRequest where
  | rmode
  | rflags
  | rread
  | rsend
  deriving DecidableEq, Repr

/-- One turn of one agent (20_memory.md R68, R72, R78). The list of turns still to come is the outside world's
part of a run: which agent moves, and what the host or the radio does (log 6). -/
inductive Turn where
  /-- A host load of `width` bits at an offset of the register window (R60). -/
  | hostRead (width : Nat) (off : Offset)
  /-- A host store of `width` bits at an offset of the register window (R60). -/
  | hostWrite (width : Nat) (off : Offset) (v : Word)
  /-- The engine may step (R72). -/
  | engine
  /-- A peer's packet arrives (42_radio_framer.md R172). -/
  | arrival (p : Payload)
  /-- A send in flight ends: f_sent latches if `sent`, else f_failed (R173). -/
  | lateCompletion (sent : Bool)
  /-- The pin of an absent transceiver takes a level (R174). -/
  | pinNoise (level : Bool)
  /-- A reset of the block alone (70_reset_and_hazards.md R220, R222). -/
  | blockReset
  deriving DecidableEq, Repr

/-- The whole machine: block state (10_state.md R21 to R39), RADIO and DISPLAY (R40, R44), parameters (R6, R33),
and three fields of the model's own: `inputs`, `hostData` and `draws`. -/
structure State where
  /-- ARG0 (R21). -/
  arg0 : BitVec 16
  /-- ARG1 (R21). -/
  arg1 : BitVec 16
  /-- ARG2 (R21). -/
  arg2 : BitVec 16
  /-- ARG3 (R21). -/
  arg3 : BitVec 16
  /-- CMD (R22). -/
  cmd : Word
  /-- STATUS (R23). -/
  status : Status
  /-- ERR (R24). -/
  err : Err
  /-- The engine latch, `none` when empty (R25). -/
  latch : Option Latch
  /-- FB (R26). -/
  fb : Buf Config.fbLen
  /-- MSG (R29). -/
  msg : Payload
  /-- TEXT (R31). -/
  text : Buf Config.textLen
  /-- TXBUF (R32). -/
  txbuf : Payload
  /-- irq_prev (R37). -/
  irqPrev : Bool
  /-- The `refused` mark since the block's last reset (R39, R45; log 5). -/
  refused : Bool
  /-- The `refused` mark of the whole run, never cleared (R39; log 5). -/
  refusedInRun : Bool
  /-- The RADIO agent (R40). -/
  radio : Radio
  /-- The display bus log (R44). -/
  dlog : List BusWrite
  /-- The radio operation log (R44). -/
  rlog : List RadioEntry
  /-- The parameters and FONT (R6, R33). -/
  params : Params
  /-- The model's own: turns still to be taken, the next one first (log 6). -/
  inputs : List Turn
  /-- The model's own: what the host's last read returned, `none` if it was refused (R63; log 7). -/
  hostData : Option Word
  /-- The model's own: how many free draws have been taken (log 8). -/
  draws : Nat
  deriving DecidableEq, Repr

/-- Reasons a step stops with a fault. No step from a reachable state has one. -/
inductive Fault where
  /-- The engine is to perform a command and the latch is empty. Raised by the engine's turn when BUSY = 1 and by a
  command that reads its operands. 10_state.md R25 excludes it. Safe: the machine stops where the spec gives no
  effect (log 11). -/
  | emptyLatch
  /-- A radio operation whose precondition fails. Raised by the radio commands. 42_radio_framer.md R150: "No command
  issues an operation whose precondition fails". Safe: the machine stops where the spec gives no effect (log 10). -/
  | radioPrecondition (op : RadioRequest)
  deriving DecidableEq, Repr

/-- Reasons a step is refused. -/
inductive Refusal where
  /-- The instruction has no meaning in the model. Raised by no arm: every command has its meaning. Safe. -/
  | notModelled (mnemonic : String)
  /-- The latch holds a word that is no command. Raised by the engine's turn. 30_encoding.md R90 excludes it: only a
  legal command is accepted. Safe (log 12). -/
  | illegalLatch (w : Word)
  deriving DecidableEq, Repr

/-- STATUS after reset (R23, R45). -/
def Status.reset : Status where
  busy := false
  done := false
  dispInit := false
  radioInit := false
  radioFail := false
  listening := false
  evSent := false
  evFailed := false
  evReady := false
  txOk := false
  pixel := false
  ping := false
  wakeArmed := false
  wakePending := false
  wakeLevel := false

/-- ERR after reset, and after a host write to it (R24, R45). -/
def Err.clear : Err where
  code := .noError
  more := false

/-- FB after a reset, with draw `d` (R27, R28, R45; log 1). -/
def fbAtReset (d : Nat) : Buf Config.fbLen :=
  bufOf Config.fbLen fun i => if i = 0 then Config.dataPrefix else Config.resetFb d i

/-- RADIO at power-on (10_state.md R43; the pin, 70_reset_and_hazards.md R221; log 3). -/
def Radio.powerOn : Radio where
  present := Config.radioPresent
  cfg := false
  mode := .off
  fSent := false
  fFailed := false
  fReady := false
  rxq := []
  txp := false
  floatPin := Config.pinAtPowerOn

/-- The machine right after power-on of the node and reset of the block (10_state.md R43 to R45;
70_reset_and_hazards.md R220, R221). -/
def State.reset : State where
  arg0 := 0#16
  arg1 := 0#16
  arg2 := 0#16
  arg3 := 0#16
  cmd := 0x00000000#32
  status := Status.reset
  err := Err.clear
  latch := none
  fb := fbAtReset 0
  msg := bufOf Config.payloadSize (Config.resetMsg 0)
  text := bufOf Config.textLen (Config.resetText 0)
  txbuf := bufOf Config.payloadSize (Config.resetTxbuf 0)
  irqPrev := if Config.radioPresent then Config.irqActiveLow else Config.pinAtPowerOn
  refused := false
  refusedInRun := false
  radio := Radio.powerOn
  dlog := []
  rlog := []
  params := Config.params
  inputs := []
  hostData := none
  draws := 1

end Sys2Proof.Machine
end

