-- ==== Sys2Proof/Machine/Flags.lean ====
section
/-! DEFINITION. The words STATUS and ERR read as (10_state.md R23, R24), the IRQ pin (R41, R42) and the wake
detector (42_radio_framer.md R171). -/

namespace Sys2Proof.Machine

/-- The fields of STATUS from bit 0 up (R23). -/
def statusBits (t : Status) : List Bool :=
  [t.busy, t.done, t.dispInit, t.radioInit, t.radioFail, t.listening, t.evSent, t.evFailed, t.evReady, t.txOk,
   t.pixel, t.ping, t.wakeArmed, t.wakePending, t.wakeLevel]

/-- STATUS as the host reads it (R23): bits 31:15 are 0. -/
def statusWord (t : Status) : Word := (BitVec.ofBoolListLE (statusBits t)).setWidth 32

/-- The number of an error code (60_exceptions.md R191). -/
def ErrorCode.number : ErrorCode → BitVec 4
  | .noError => 0#4
  | .illegal => 1#4
  | .rsvd => 2#4
  | .busy => 3#4
  | .notInit => 4#4
  | .oneshot => 5#4
  | .radioDown => 6#4

/-- ERR as the host reads it (R24): CODE in bits 3:0, MORE in bit 4, bits 31:5 are 0. -/
def errWord (e : Err) : Word :=
  0#27 ++ BitVec.ofBool e.more ++ e.code.number

/-- `irq_asserted` (R41). -/
def irqAsserted (r : Radio) : Bool :=
  r.present && (r.fSent || r.fFailed || r.fReady)

/-- The IRQ pin level (R42). -/
def irqLevel (r : Radio) : Bool :=
  if r.present then
    if Config.irqActiveLow then !irqAsserted r else irqAsserted r
  else r.floatPin

/-- Whether the armed detector sees its transition (R171). -/
def detectorFires (s : State) : Bool :=
  s.status.wakeArmed && (s.irqPrev != s.status.wakeLevel) && (irqLevel s.radio == s.status.wakeLevel)

/-- One evaluation of the wake detector (R171). -/
def detect (s : State) : State :=
  { s with
    status := { s.status with
      wakePending := s.status.wakePending || detectorFires s
      wakeArmed := s.status.wakeArmed && !detectorFires s }
    irqPrev := irqLevel s.radio }

end Sys2Proof.Machine
end

