-- ==== Sys2Proof/Machine/Operands.lean ====
section
/-! DEFINITION. Operand forms (30_encoding.md R88) and the string TEXT draws (40_renderer.md R126). `on`, the
ARMWAKE level and the TEXT source are fields of the decoded command. -/

namespace Sys2Proof.Machine

/-- A coordinate operand, `sext_16` of an argument (R88). -/
def coordinate (v : BitVec 16) : Int := v.toInt

/-- The first x operand, from A0 (10_state.md R21). -/
def Latch.x0 (l : Latch) : Int := coordinate l.a0

/-- The first y operand, from A1 (R21). -/
def Latch.y0 (l : Latch) : Int := coordinate l.a1

/-- The second x operand, from A2 (R21). -/
def Latch.x1 (l : Latch) : Int := coordinate l.a2

/-- The second y operand, from A3 (R21). -/
def Latch.y1 (l : Latch) : Int := coordinate l.a3

/-- The GLYPH character, `zext_8` of A2 bits 7:0 (R88); A2 bits 15:8 are ignored (R21). -/
def Latch.ch (l : Latch) : Byte := l.a2.extractLsb' 0 8

/-- The bytes of a buffer before its first 0x00, or all of them (10_state.md R30, R31). -/
def textBytes {n : Nat} (b : Buf n) : List Byte :=
  b.toList.takeWhile fun c => c != 0#8

/-- `TextOf(src)` (R126). -/
def textOf (src : TextSource) (s : State) : List Byte :=
  match src with
  | .textRam => textBytes s.text
  | .msg => textBytes s.msg

end Sys2Proof.Machine
end

