-- ==== Sys2Proof/Machine/Raster.lean ====
section
/-! DEFINITION. The renderer's operations on the framebuffer alone: pixels, lines, glyphs and text (40_renderer.md
R105 to R107, R113, R123, R127, R128), and the byte reads and writes of a buffer they use. All coordinates are exact
integers (00_scope.md R11, R121). -/

namespace Sys2Proof.Machine

/-- The framebuffer's contents (10_state.md R26). -/
abbrev Frame := Buf Config.fbLen

/-- Byte `i` of a buffer; a byte past its end, a pad byte of a window, reads 0 (20_memory.md R60, R62). -/
def byteAt {n : Nat} (b : Buf n) (i : Nat) : Byte := b.toList.getD i 0#8

/-- The buffer with byte `i` replaced; a write past its end changes nothing (R60, R64). -/
def setByte {n : Nat} (b : Buf n) (i : Nat) (v : Byte) : Buf n := b.setIfInBounds i v

/-- `InRange(x, y)` (R106). -/
def inRange (x y : Int) : Bool :=
  decide (0 ≤ x) && decide (x < Config.width) && decide (0 ≤ y) && decide (y < Config.height)

/-- `PixIndex(x, y)` (R105). -/
def pixIndex (x y : Int) : Nat := (1 + y / 8 * Config.width + x).toNat

/-- The weight of pixel row `y` in its byte, bit `y mod 8` (R105; 20_memory.md R67). -/
def pixMask (y : Int) : Byte := 1#8 <<< (y % 8).toNat

/-- `SetPix(x, y, on)` (R107). -/
def setPix (x y : Int) (on : Bool) (f : Frame) : Frame :=
  if inRange x y then
    setByte f (pixIndex x y)
      (if on then byteAt f (pixIndex x y) ||| pixMask y else byteAt f (pixIndex x y) &&& ~~~(pixMask y))
  else f

/-- The pixel PGET reads: its bit, or 0 out of range (R111). -/
def getPix (x y : Int) (f : Frame) : Bool :=
  inRange x y && (byteAt f (pixIndex x y)).getLsbD (y % 8).toNat

/-- FB with bytes 1..512 zero and byte 0 kept (R108). -/
def clearPixels (f : Frame) : Frame :=
  bufOf Config.fbLen fun i => if i = 0 then byteAt f 0 else 0#8

/-- The loop of `LinePoints` (R113) from cell (x, y) with error term `err`. The fuel only bounds the loop: R115
bounds the cells by the larger coordinate difference plus one, and `linePoints` gives more (log 23). -/
def lineLoop (x1 y1 dx dy sx sy : Int) : Nat → Int → Int → Int → List (Int × Int)
  | 0, _, _, _ => []
  | fuel + 1, x, y, err =>
    (x, y) ::
      if x = x1 ∧ y = y1 then []
      else
        lineLoop x1 y1 dx dy sx sy fuel
          (if 2 * err ≥ dy then x + sx else x)
          (if 2 * err ≤ dx then y + sy else y)
          (err + (if 2 * err ≥ dy then dy else 0) + (if 2 * err ≤ dx then dx else 0))

/-- `LinePoints(x0, y0, x1, y1)` (R113). -/
def linePoints (x0 y0 x1 y1 : Int) : List (Int × Int) :=
  lineLoop x1 y1 (x1 - x0).natAbs (-(y1 - y0).natAbs) (if x0 < x1 then 1 else -1) (if y0 < y1 then 1 else -1)
    ((x1 - x0).natAbs + (y1 - y0).natAbs + 1) x0 y0 ((x1 - x0).natAbs + -(y1 - y0).natAbs)

/-- SetPix on each cell in order (R114). -/
def setCells (on : Bool) (cells : List (Int × Int)) (f : Frame) : Frame :=
  cells.foldl (fun g c => setPix c.1 c.2 on g) f

/-- Column `i` of the glyph for a printable code, `FONT[ch - 0x20][i]` (R122). -/
def fontColumn (p : Params) (ch : Byte) (i : Nat) : Byte :=
  (p.font.getD (ch.toNat - 0x20) []).getD i 0#8

/-- Whether a code is printable ASCII, 0x20 to 0x7E (00_scope.md R13, R122). -/
def printable (ch : Byte) : Bool := decide (0x20 ≤ ch.toNat) && decide (ch.toNat ≤ 0x7E)

/-- Column `i` of a glyph at x written to page `y div 8`, if it is on screen (R123). -/
def glyphColumn (p : Params) (x y : Int) (ch : Byte) (f : Frame) (i : Nat) : Frame :=
  if 0 ≤ x + i ∧ x + i < Config.width then
    setByte f (1 + y / 8 * Config.width + (x + i)).toNat (fontColumn p ch i)
  else f

/-- `GlyphAt(x, y, ch)` (R123). -/
def glyphAt (p : Params) (x y : Int) (ch : Byte) (f : Frame) : Frame :=
  if printable ch ∧ 0 ≤ y ∧ y < Config.height then
    (List.range p.glyphWidth).foldl (glyphColumn p x y ch) f
  else f

/-- The pitch of text, GLYPH_WIDTH + GLYPH_PAD (R127). -/
def pitch (p : Params) : Nat := p.glyphWidth + p.glyphPad

/-- The glyphs of a string from x on, one pitch a byte, printable or not (R127, R128). -/
def drawText (p : Params) (y : Int) : List Byte → Int → Frame → Frame
  | [], _, f => f
  | c :: cs, x, f => drawText p y cs (x + pitch p) (glyphAt p x y c f)

end Sys2Proof.Machine
end

