-- ==== Sys2Proof/Machine/Ops.lean ====
section
/-! DEFINITION. The operations the commands share: recording an error and clearing it (60_exceptions.md R190, R194;
10_state.md R24), the two ends of an engine step (20_memory.md R72), operands from the latch (10_state.md R25), the
radio gate (42_radio_framer.md R153), bus transactions (41_display_transport.md R135) and radio operations
(42_radio_framer.md R150, R161, R163).

The block has no traps (R194): recording an error is what stands in the place of taking an exception, and the host's
write to ERR in the place of the return from one. -/

namespace Sys2Proof.Machine

/-- What a step or a command answers. -/
abbrev Answer := Host.Outcome State Fault Refusal

/-! ### Errors -/

/-- ERR after `raise Err(code)`: the first code stays, MORE records the later ones (R190). -/
def Err.record (code : ErrorCode) (e : Err) : Err :=
  if e.code = .noError then { e with code := code } else { e with more := true }

/-- `raise Err(code)` (R190): nothing but ERR is written. -/
def raiseErr (code : ErrorCode) (s : State) : State :=
  { s with err := Err.record code s.err }

/-- A host write to ERR clears CODE and MORE (10_state.md R24; the analogue of returning from an error, R194). -/
def clearErr (s : State) : State := { s with err := Err.clear }

/-! ### The two ends of an engine step -/

/-- The state after a command that completes (R72), with the detector's evaluation at the end of the step (R171). -/
def completed (s : State) : State :=
  detect { s with status := { s.status with busy := false, done := true }, latch := none }

/-- A command completes (R72). -/
def complete (s : State) : Answer := .next (completed s)

/-- The state after a command that raises NOT_INIT, ONESHOT or RADIO_DOWN (R72, R190): DONE is not written. -/
def failed (code : ErrorCode) (s : State) : State :=
  detect { s with err := Err.record code s.err, status := { s.status with busy := false }, latch := none }

/-- A command raises an engine-step error (R190). -/
def failWith (code : ErrorCode) (s : State) : Answer := .next (failed code s)

/-- A command that reads its operands from the latch (10_state.md R25). -/
def withLatch (s : State) (k : Latch → Answer) : Answer :=
  match s.latch with
  | some l => k l
  | none => .fault .emptyLatch

/-- What the engine finds when it gets its turn (R72). -/
inductive Fetched where
  /-- BUSY = 0: the engine has no step. -/
  | idle
  /-- BUSY = 1 and a legal command is latched. -/
  | command (i : Instr)
  /-- BUSY = 1 and the latch is empty. -/
  | nothing
  /-- BUSY = 1 and the latched word is no command. -/
  | garbage (w : Word)
  deriving DecidableEq, Repr

/-- The engine reads its latch (R72) and decodes the word (30_encoding.md R90). -/
def fetch (s : State) : Fetched :=
  if s.status.busy then
    match s.latch with
    | none => .nothing
    | some l =>
      match decode l.word with
      | .ok i => .command i
      | .error _ => .garbage l.word
  else .idle

/-! ### The display bus -/

/-- `I2CWrite(a, bytes)` (R135). Whether the display acknowledges changes nothing (R142). -/
def busWrite (bytes : List Byte) (s : State) : State :=
  { s with dlog := s.dlog ++ [{ addr := Config.dispAddr, bytes := bytes }] }

/-! ### Radio operations. Each one is logged, and the detector is evaluated after it (R150, R171). -/

/-- The mode RMODE(m) sets. -/
def LinkMode.mode : LinkMode → RadioMode
  | .rx => .rx
  | .tx => .tx

/-- RADIO after RCFG (R150). -/
def Radio.configured (r : Radio) : Radio :=
  if r.present then
    { r with cfg := true, mode := .rx, fSent := false, fFailed := false, fReady := false, rxq := [], txp := false }
  else r

/-- After `RadioOp(RCFG)` (R150); the result is `present`. -/
def afterCfg (s : State) : State :=
  detect { s with radio := s.radio.configured, rlog := s.rlog ++ [.rcfg s.radio.present] }

/-- After `RadioOp(RMODE(m))` (R150). -/
def afterMode (m : LinkMode) (s : State) : State :=
  detect { s with radio := { s.radio with mode := m.mode }, rlog := s.rlog ++ [.rmode m] }

/-- After `RadioOp(RFLAGS)` (R150): read and clear, indivisible. -/
def afterFlags (s : State) : State :=
  detect { s with
    radio := { s.radio with fSent := false, fFailed := false, fReady := false }
    rlog := s.rlog ++ [.rflags s.radio.fSent s.radio.fFailed s.radio.fReady] }

/-- After `RadioOp(RREAD)` with result `p` (R150). -/
def afterRead (p : Payload) (s : State) : State :=
  detect { s with radio := { s.radio with rxq := s.radio.rxq.tail }, rlog := s.rlog ++ [.rread p] }

/-- A send in flight ends: it latches f_sent or f_failed (R163, R173). -/
def Radio.endSend (sent : Bool) (r : Radio) : Radio :=
  { r with txp := false, fSent := r.fSent || sent, fFailed := r.fFailed || !sent }

/-- RADIO after RSEND with the draws `d` (R163): an earlier send in flight ends first; then ACK may latch f_sent, MAX_RT
may latch f_failed, and TIMEOUT leaves the send in flight. -/
def Radio.sent (d : SendDraws) (r : Radio) : Radio :=
  let r := if r.txp then r.endSend d.earlierSent else r
  { r with
    fSent := r.fSent || (d.outcome == .ack && d.keep)
    fFailed := r.fFailed || (d.outcome == .maxRt && d.keep)
    txp := d.outcome == .timeout }

/-- After `RadioOp(RSEND(p))` with the draws `d` (R150, R163). -/
def afterSend (p : Payload) (d : SendDraws) (s : State) : State :=
  detect { s with radio := s.radio.sent d, rlog := s.rlog ++ [.rsend p d.outcome] }

/-- One more draw has been taken. -/
def drawn (s : State) : State := { s with draws := s.draws + 1 }

/-- `RadioOp(RMODE(m))`, then the rest of the command. -/
def radioMode (m : LinkMode) (s : State) (k : State → Answer) : Answer :=
  if s.radio.cfg then k (afterMode m s) else .fault (.radioPrecondition .rmode)

/-- `RadioOp(RFLAGS)`, then the rest of the command, which gets (f_sent, f_failed, f_ready). -/
def radioFlags (s : State) (k : Bool → Bool → Bool → State → Answer) : Answer :=
  if s.radio.cfg then k s.radio.fSent s.radio.fFailed s.radio.fReady (afterFlags s)
  else .fault (.radioPrecondition .rflags)

/-- `RadioOp(RREAD)`, then the rest of the command, which gets the payload: the queue's head, or 21 drawn bytes when
the queue is empty (R150, R159; log 14). -/
def radioRead (s : State) (k : Payload → State → Answer) : Answer :=
  if s.radio.cfg then
    match s.radio.rxq with
    | p :: _ => k p (afterRead p s)
    | [] => k (Config.emptyRead s.draws) (afterRead (Config.emptyRead s.draws) (drawn s))
  else .fault (.radioPrecondition .rread)

/-- `RadioOp(RSEND(p))` with its outcome drawn, then the rest of the command (R150, R163; log 13). -/
def radioSend (p : Payload) (s : State) (k : SendOutcome → State → Answer) : Answer :=
  if s.radio.cfg ∧ s.radio.mode = .tx then
    k (Config.sendDraws s.draws).outcome (afterSend p (Config.sendDraws s.draws) (drawn s))
  else .fault (.radioPrecondition .rsend)

/-- LISTENING written (10_state.md R35). -/
def setListening (b : Bool) (s : State) : State :=
  { s with status := { s.status with listening := b } }

/-- TX_OK written from an outcome (R161). -/
def setTxOk (o : SendOutcome) (s : State) : State :=
  { s with status := { s.status with txOk := o == .ack } }

/-- The event snapshot written (10_state.md R36). -/
def setEvents (sent fail ready : Bool) (s : State) : State :=
  { s with status := { s.status with evSent := sent, evFailed := fail, evReady := ready } }

/-- `Transmit(p)` (R161), then the rest of the command. -/
def transmit (p : Payload) (s : State) (k : State → Answer) : Answer :=
  let send : State → Answer := fun t => radioSend p (setListening false t) fun o u => k (setTxOk o u)
  if s.radio.mode = .rx then radioMode .tx s send else send s

/-- The gate of LISTEN, UNLISTEN, POLL, RECV and XMIT (R153), NOT_INIT before RADIO_DOWN. -/
def gated (s : State) (k : State → Answer) : Answer :=
  if s.status.radioInit = false then failWith .notInit s
  else if s.status.radioFail = true then failWith .radioDown s
  else k s

end Sys2Proof.Machine
end

