-- ==== Sys2Proof/Machine/Control.lean ====
section
/-! DEFINITION. The NOP command (30_encoding.md R94). -/

namespace Sys2Proof.Machine

/-- NOP (R94). -/
def execNop (s : State) : Answer := complete s

end Sys2Proof.Machine
end

