-- ==== Sys2Proof/Machine/Display.lean ====
section
/-! DEFINITION. The display transport's commands (41_display_transport.md). -/

namespace Sys2Proof.Machine

/-- INIT_SEQ sent, one transaction a command, each behind CMD_PREFIX (R136, R137). BusSetup changes no state and
emits nothing (R138). -/
def sendInitSeq (s : State) : State :=
  Config.initSeq.foldl (fun t c => busWrite (Config.cmdPrefix :: c) t) s

/-- DINIT (R136, R139). -/
def execDinit (s : State) : Answer :=
  if s.status.dispInit then failWith .oneshot s
  else
    let t := sendInitSeq s
    complete { t with status := { t.status with dispInit := true } }

/-- PUSH (R140, R141): the whole framebuffer in index order (20_memory.md R66). -/
def execPush (s : State) : Answer :=
  if s.status.dispInit then complete (busWrite s.fb.toList s) else failWith .notInit s

end Sys2Proof.Machine
end

