-- ==== Sys2Proof/Machine/RadioLink.lean ====
section
/-! DEFINITION. The radio framer's commands (42_radio_framer.md). -/

namespace Sys2Proof.Machine

/-- What RINIT leaves once RCFG has answered `ok` (R152). -/
def recordInit (ok : Bool) (s : State) : State :=
  { s with status := { s.status with listening := ok, radioFail := s.status.radioFail || !ok } }

/-- RINIT (R152). -/
def execRinit (s : State) : Answer :=
  if s.status.radioInit then failWith .oneshot s
  else
    complete (recordInit s.radio.present (afterCfg { s with status := { s.status with radioInit := true } }))

/-- LISTEN (R154). -/
def execListen (s : State) : Answer :=
  gated s fun s => radioMode .rx s fun s => complete (setListening true s)

/-- UNLISTEN (R155). -/
def execUnlisten (s : State) : Answer :=
  gated s fun s => radioMode .tx s fun s => complete (setListening false s)

/-- POLL (R156). -/
def execPoll (s : State) : Answer :=
  gated s fun s => radioFlags s fun sent fail ready s => complete (setEvents sent fail ready s)

/-- RECV (R158): all 21 bytes of MSG in one step. -/
def execRecv (s : State) : Answer :=
  gated s fun s => radioRead s fun p s => complete { s with msg := p }

/-- XMIT (R162). -/
def execXmit (s : State) : Answer :=
  gated s fun s => transmit s.txbuf s complete

/-- PONG (R160): "!PONG" and sixteen 0x00. -/
def pong : Payload :=
  bufOf Config.payloadSize fun i => [0x21#8, 0x50#8, 0x4F#8, 0x4E#8, 0x47#8].getD i 0#8

/-- `IsPing(MSG)` (R165): bytes 0..5 are "!PING" and 0x00; the rest are ignored. -/
def isPing (m : Payload) : Bool :=
  m.toList.take 6 == [0x21#8, 0x50#8, 0x49#8, 0x4E#8, 0x47#8, 0x00#8]

/-- PING written (10_state.md R23). -/
def setPing (b : Bool) (s : State) : State :=
  { s with status := { s.status with ping := b } }

/-- The answer to a ping (R166): stop listening, transmit PONG, resume listening whatever the outcome. The turnaround
delay changes no state (60_exceptions.md R207). -/
def answerPing (s : State) : Answer :=
  radioMode .tx (setPing true s) fun s =>
    transmit pong (setListening false s) fun s =>
      radioMode .rx s fun s => complete (setListening true s)

/-- EVENT (R166, R167). -/
def execEvent (s : State) : Answer :=
  if s.status.radioInit = false then failWith .notInit s
  else if s.status.radioFail = true then complete (setPing false (setEvents false false false s))
  else
    radioFlags s fun sent fail ready s =>
      let s := setPing false (setEvents sent fail ready s)
      if ready then
        radioRead s fun p s =>
          let s := { s with msg := p }
          if isPing p then answerPing s else complete s
      else complete s

end Sys2Proof.Machine
end

