-- ==== Sys2Proof/Machine/Renderer.lean ====
section
/-! DEFINITION. The renderer's commands (40_renderer.md). None emits a bus transaction or a radio operation. -/

namespace Sys2Proof.Machine

/-- CLEAR (R108). -/
def execClear (s : State) : Answer := complete { s with fb := clearPixels s.fb }

/-- PSET (R109). -/
def execPset (on : Bool) (s : State) : Answer :=
  withLatch s fun l => complete { s with fb := setPix l.x0 l.y0 on s.fb }

/-- PGET (R111). -/
def execPget (s : State) : Answer :=
  withLatch s fun l => complete { s with status := { s.status with pixel := getPix l.x0 l.y0 s.fb } }

/-- LINE (R114). -/
def execLine (on : Bool) (s : State) : Answer :=
  withLatch s fun l => complete { s with fb := setCells on (linePoints l.x0 l.y0 l.x1 l.y1) s.fb }

/-- GLYPH (R123). -/
def execGlyph (s : State) : Answer :=
  withLatch s fun l => complete { s with fb := glyphAt s.params l.x0 l.y0 l.ch s.fb }

/-- TEXT (R128). -/
def execText (src : TextSource) (s : State) : Answer :=
  withLatch s fun l => complete { s with fb := drawText s.params l.y0 (textOf src s) l.x0 s.fb }

end Sys2Proof.Machine
end

