-- ==== Sys2Proof/Machine/Wake.lean ====
section
/-! DEFINITION. The wake detector's command (42_radio_framer.md R170). -/

namespace Sys2Proof.Machine

/-- ARMWAKE (R170). -/
def execArmwake (level : Bool) (s : State) : Answer :=
  complete { s with
    status := { s.status with wakeLevel := level, wakePending := false, wakeArmed := true }
    irqPrev := irqLevel s.radio }

end Sys2Proof.Machine
end

