-- ==== Sys2Proof/Machine/Dispatch.lean ====
section
/-! DEFINITION. One arm for each command (30_encoding.md R86), each a direct call of its meaning. -/

namespace Sys2Proof.Machine

def exec (i : Instr) (s : State) : Host.Outcome State Fault Refusal :=
  match i with
  | .nop => Sys2Proof.Machine.execNop s
  | .clear => Sys2Proof.Machine.execClear s
  | .pset on => Sys2Proof.Machine.execPset on s
  | .pget => Sys2Proof.Machine.execPget s
  | .line on => Sys2Proof.Machine.execLine on s
  | .glyph => Sys2Proof.Machine.execGlyph s
  | .text src => Sys2Proof.Machine.execText src s
  | .dinit => Sys2Proof.Machine.execDinit s
  | .push => Sys2Proof.Machine.execPush s
  | .rinit => Sys2Proof.Machine.execRinit s
  | .listen => Sys2Proof.Machine.execListen s
  | .unlisten => Sys2Proof.Machine.execUnlisten s
  | .poll => Sys2Proof.Machine.execPoll s
  | .recv => Sys2Proof.Machine.execRecv s
  | .xmit => Sys2Proof.Machine.execXmit s
  | .event => Sys2Proof.Machine.execEvent s
  | .armwake level => Sys2Proof.Machine.execArmwake level s

end Sys2Proof.Machine
end

