-- ==== Sys2Proof/Machine/HostPort.lean ====
section
/-! DEFINITION. The host register window (20_memory.md R60 to R65) and the acceptance of commands (R70, R71). -/

namespace Sys2Proof.Machine

/-- What stands at a mapped word of the window (R60); a byte window's argument is the word's index in it. -/
inductive HostReg where
  | cmd
  | status
  | err
  | arg0
  | arg1
  | arg2
  | arg3
  | text (j : Nat)
  | msg (j : Nat)
  | txbuf (j : Nat)
  | fb (j : Nat)
  deriving DecidableEq, Repr

/-- The register map (R60): `none` where the offset is not a multiple of 4 or is unmapped (R63). -/
def hostReg (off : Offset) : Option HostReg :=
  let a := off.toNat
  if a % 4 ≠ 0 then none
  else if a = 0x000 then some .cmd
  else if a = 0x004 then some .status
  else if a = 0x008 then some .err
  else if a = 0x00C then some .arg0
  else if a = 0x010 then some .arg1
  else if a = 0x014 then some .arg2
  else if a = 0x018 then some .arg3
  else if 0x100 ≤ a ∧ a < 0x120 then some (.text ((a - 0x100) / 4))
  else if 0x140 ≤ a ∧ a < 0x158 then some (.msg ((a - 0x140) / 4))
  else if 0x160 ≤ a ∧ a < 0x178 then some (.txbuf ((a - 0x160) / 4))
  else if 0x400 ≤ a ∧ a < 0x604 then some (.fb ((a - 0x400) / 4))
  else none

/-- The word an access of `width` bits reaches, `none` when R63 refuses it. -/
def accessed (width : Nat) (off : Offset) : Option HostReg :=
  if width = 32 then hostReg off else none

/-- Word `j` of a byte window, little-endian lanes, pads reading 0 (R61, R62). -/
def windowWord {n : Nat} (b : Buf n) (j : Nat) : Word :=
  byteAt b (4 * j + 3) ++ byteAt b (4 * j + 2) ++ byteAt b (4 * j + 1) ++ byteAt b (4 * j)

/-- A byte window with all four lanes of word `j` stored, pads ignoring the write (R61, R64). -/
def storeWord {n : Nat} (b : Buf n) (j : Nat) (v : Word) : Buf n :=
  setByte
    (setByte
      (setByte (setByte b (4 * j) (v.extractLsb' 0 8)) (4 * j + 1) (v.extractLsb' 8 8))
      (4 * j + 2) (v.extractLsb' 16 8))
    (4 * j + 3) (v.extractLsb' 24 8)

/-- What a read of an ARG register returns: bits 31:16 read 0 (20_memory.md R64: "Reserved fields read as 0"; DESIGN
CHOICE against R21's "sign-extended", unsafe, log 4). -/
def argWord (v : BitVec 16) : Word := v.setWidth 32

/-- What a host read of a register returns (10_state.md R22 to R24; 20_memory.md R61, R62). -/
def regRead (r : HostReg) (s : State) : Word :=
  match r with
  | .cmd => s.cmd
  | .status => statusWord s.status
  | .err => errWord s.err
  | .arg0 => argWord s.arg0
  | .arg1 => argWord s.arg1
  | .arg2 => argWord s.arg2
  | .arg3 => argWord s.arg3
  | .text j => windowWord s.text j
  | .msg j => windowWord s.msg j
  | .txbuf j => windowWord s.txbuf j
  | .fb j => windowWord s.fb j

/-- A command word offered to the engine (R70), the checks in the order shown there. -/
def offerCommand (w : Word) (s : State) : State :=
  if s.status.busy then raiseErr .busy s
  else
    match decode w with
    | .error .illegal => raiseErr .illegal s
    | .error .rsvd => raiseErr .rsvd s
    | .ok _ =>
      { s with
        cmd := w
        latch := some { word := w, a0 := s.arg0, a1 := s.arg1, a2 := s.arg2, a3 := s.arg3 }
        status := { s.status with busy := true, done := false } }

/-- A host write to STATUS: write-1-to-clear of DONE (bit 1) and WAKE_PENDING (bit 13), nothing else (10_state.md
R23). -/
def writeStatus (v : Word) (s : State) : State :=
  { s with
    status := { s.status with
      done := s.status.done && !v.getLsbD 1
      wakePending := s.status.wakePending && !v.getLsbD 13 } }

/-- A host write of `v` to a register (R60, R64, R70, R71). -/
def regWrite (r : HostReg) (v : Word) (s : State) : State :=
  match r with
  | .cmd => offerCommand v s
  | .status => writeStatus v s
  | .err => clearErr s
  | .arg0 => { s with arg0 := v.extractLsb' 0 16 }
  | .arg1 => { s with arg1 := v.extractLsb' 0 16 }
  | .arg2 => { s with arg2 := v.extractLsb' 0 16 }
  | .arg3 => { s with arg3 := v.extractLsb' 0 16 }
  | .text j => if s.status.busy then raiseErr .busy s else { s with text := storeWord s.text j v }
  | .msg _ => s
  | .txbuf j => if s.status.busy then raiseErr .busy s else { s with txbuf := storeWord s.txbuf j v }
  | .fb _ => s

/-- A refused access (R63): the two `refused` marks and nothing else (10_state.md R39; log 5). -/
def refuseAccess (s : State) : State := { s with refused := true, refusedInRun := true }

/-- `MemRead` of the window: the value goes to `hostData`, the model's record of what the host saw (log 7), and the
detector is evaluated (42_radio_framer.md R171). A refused read returns no value (R63; log 20). -/
def hostRead (width : Nat) (off : Offset) (s : State) : State :=
  match accessed width off with
  | some r => detect { s with hostData := some (regRead r s) }
  | none => refuseAccess { s with hostData := none }

/-- `MemWrite` to the window, with the detector's evaluation after it (42_radio_framer.md R171). -/
def hostWrite (width : Nat) (off : Offset) (v : Word) (s : State) : State :=
  match accessed width off with
  | some r => detect (regWrite r v s)
  | none => refuseAccess s

end Sys2Proof.Machine
end

