-- ==== Sys2Proof/Machine/Agents.lean ====
section
/-! DEFINITION. One turn of each agent: the engine (20_memory.md R72), the radio (42_radio_framer.md R172 to R174), and
the reset of the block (70_reset_and_hazards.md R220, R222). -/

namespace Sys2Proof.Machine

/-- The engine's turn (R72): it performs the latched command, and has no step while BUSY = 0. -/
def engineTurn (s : State) : Answer :=
  match fetch s with
  | .idle => .next s
  | .command i => exec i s
  | .nothing => .fault .emptyLatch
  | .garbage w => .refused (.illegalLatch w)

/-- RADIO after a packet reaches it (R172): a packet that finds the queue full is lost. -/
def Radio.arrived (depth : Nat) (p : Payload) (r : Radio) : Radio :=
  if r.rxq.length < depth then { r with rxq := r.rxq ++ [p], fReady := true } else r

/-- Packet arrival (R172), a step only while the transceiver is present, configured and listening (log 9). -/
def arrivalTurn (p : Payload) (s : State) : State :=
  if s.radio.present ∧ s.radio.cfg ∧ s.radio.mode = .rx then
    detect { s with radio := s.radio.arrived s.params.rxDepth p }
  else s

/-- Late completion (R173), a step only while a send is in flight (log 9). -/
def lateTurn (sent : Bool) (s : State) : State :=
  if s.radio.txp then detect { s with radio := s.radio.endSend sent } else s

/-- Pin noise (R174), a step only without a transceiver (log 9). -/
def pinTurn (level : Bool) (s : State) : State :=
  if s.radio.present then s else detect { s with radio := { s.radio with floatPin := level } }

/-- A reset of the block alone (R220, R222): every piece of block state to its value in 10_state.md R45, the `refused`
mark among them, with fresh draws for the buffers (log 1); RADIO, the logs and the parameters stay (R43, R44), and so
does the mark of the whole run (R39; log 5). -/
def blockReset (s : State) : State :=
  { s with
    arg0 := 0#16
    arg1 := 0#16
    arg2 := 0#16
    arg3 := 0#16
    cmd := 0x00000000#32
    status := Status.reset
    err := Err.clear
    latch := none
    fb := fbAtReset s.draws
    msg := bufOf Config.payloadSize (Config.resetMsg s.draws)
    text := bufOf Config.textLen (Config.resetText s.draws)
    txbuf := bufOf Config.payloadSize (Config.resetTxbuf s.draws)
    irqPrev := irqLevel s.radio
    refused := false
    draws := s.draws + 1 }

/-- One turn, taken from the front of `inputs`. -/
def takeTurn (t : Turn) (s : State) : Answer :=
  match t with
  | .hostRead width off => .next (hostRead width off s)
  | .hostWrite width off v => .next (hostWrite width off v s)
  | .engine => engineTurn s
  | .arrival p => .next (arrivalTurn p s)
  | .lateCompletion sent => .next (lateTurn sent s)
  | .pinNoise level => .next (pinTurn level s)
  | .blockReset => .next (blockReset s)

end Sys2Proof.Machine
end

