-- ==== Sys2Proof/Machine/Step.lean ====
section
/-! DEFINITION. One step of the whole machine: the next turn in `inputs`. -/

namespace Sys2Proof.Machine

/-- One step (00_scope.md R9; 20_memory.md R68, R72, R78): the agent whose turn is next moves. With no turn left the
machine waits (log 6). -/
def step (s : State) : Host.Outcome State Fault Refusal :=
  match s.inputs with
  | [] => .next s
  | t :: rest => takeTurn t { s with inputs := rest }

/-- `s` with a table row's word as the latched command, accepted as 20_memory.md R70 accepts it, and the engine's turn
next: the block runs no program of its own (R20), so its "next instruction" is the latched command (log 19). -/
def State.withFetchWord (s : State) (nbits w : Nat) : State :=
  { s with
    cmd := BitVec.ofNat 32 (w % 2 ^ nbits)
    latch := some {
      word := BitVec.ofNat 32 (w % 2 ^ nbits), a0 := s.arg0, a1 := s.arg1, a2 := s.arg2, a3 := s.arg3 }
    status := { s.status with busy := true, done := false }
    inputs := .engine :: s.inputs }

end Sys2Proof.Machine
end

