-- ==== Sys2Proof/Assembly.lean ====
section
/-! DEFINITION. The host-side assembler's lines (30_encoding.md R91 to R93): what a listing of the spec is made of.
They are host programs, outside the block (10_state.md R20); Machine/HostProgram.lean expands them to host
accesses. -/

namespace Sys2Proof

/-- A line of a host listing. -/
inductive AsmLine where
  /-- A command mnemonic with its numeric operands in ARG order (R91, R92): `PSET 5, 9, 1` is
  `command (.pset true) [5, 9]`. -/
  | command (i : Instr) (operands : List Int)
  /-- `LOADTEXT "s"` (R93). -/
  | loadText (s : List Byte)
  /-- `LOADTX "s"` (R93). -/
  | loadTx (s : List Byte)
  /-- `PRINT n, src` (R93). -/
  | print (n : Nat) (src : TextSource)
  /-- `CLRERR` (R93). -/
  | clrErr
  /-- `ACKWAKE` (R93). -/
  | ackWake
  /-- `WAITWAKE` (R93). -/
  | waitWake
  deriving DecidableEq, Repr

/-- How many ARG registers a command's line writes, ARG0 first (R91). -/
def Instr.argCount : Instr → Nat
  | .nop => 0
  | .clear => 0
  | .pset _ => 2
  | .pget => 2
  | .line _ => 4
  | .glyph => 3
  | .text _ => 2
  | .dinit => 0
  | .push => 0
  | .rinit => 0
  | .listen => 0
  | .unlisten => 0
  | .poll => 0
  | .recv => 0
  | .xmit => 0
  | .event => 0
  | .armwake _ => 0

end Sys2Proof
end

