-- ==== Sys2Proof/WellFormed.lean ====
section
/-! DEFINITION. What the spec requires of the inputs to a model: the ranges of the OPEN parameters (00_scope.md R6)
and the operand ranges of the host-side assembler (30_encoding.md R91, R93). Every term of `Instr` is well-formed by
its type: its fields are single bits, and reserved bits have no place in it (R86). -/

namespace Sys2Proof

/-- The parameters are in the ranges of R6, and FONT has 95 glyphs of GLYPH_WIDTH columns (10_state.md R33). -/
def Params.wf (p : Params) : Bool :=
  decide (1 ≤ p.glyphWidth) && decide (p.glyphWidth ≤ 16) && decide (p.glyphPad ≤ 15) && decide (1 ≤ p.rxDepth) &&
    p.font.length == 95 && p.font.all fun g => g.length == p.glyphWidth

/-- A coordinate operand is an integer in -32768..32767 (R91). -/
def coordinateOk (v : Int) : Bool := decide (-32768 ≤ v) && decide (v ≤ 32767)

/-- A character operand is an integer in 0..255 (R91). -/
def characterOk (v : Int) : Bool := decide (0 ≤ v) && decide (v ≤ 255)

/-- The numeric operands of a command's line: as many as R91 gives it, each in its range. -/
def operandsOk (i : Instr) (ops : List Int) : Bool :=
  ops.length == i.argCount &&
    match i, ops with
    | .glyph, [x, y, ch] => coordinateOk x && coordinateOk y && characterOk ch
    | _, ops => ops.all coordinateOk

/-- A well-formed line of a host listing (R91, R93). -/
def AsmLine.wf : AsmLine → Bool
  | .command i ops => operandsOk i ops
  | .loadText s => decide (s.length ≤ Config.textLen)
  | .loadTx s => decide (s.length ≤ Config.payloadSize)
  | .print n _ => decide (1 ≤ n) && decide (n ≤ 4)
  | .clrErr => true
  | .ackWake => true
  | .waitWake => true

end Sys2Proof
end

