-- ==== Sys2Proof/Safety.lean ====
section
/-! DEFINITION. The terms claims are stated in: the invariant of every run from power-on, what a command leaves
unchanged, and what counts as a good run. -/

namespace Sys2Proof.Machine

/-! ### The invariant, clause by clause -/

/-- BUSY is 1 exactly when a command is latched, the latched word is the one CMD shows, and DONE is 0 while BUSY
(10_state.md R22, R23, R25; 20_memory.md R70, R72). -/
abbrev LatchInv (s : State) : Prop :=
  s.latch.map Latch.word = (if s.status.busy then some s.cmd else none) ∧ (s.status.busy = true → s.status.done = false)

/-- CMD holds a legal command (30_encoding.md R90). -/
abbrev CmdInv (s : State) : Prop := isCommand s.cmd = true

/-- FB[0] holds DATA_PREFIX (10_state.md R27). -/
abbrev PrefixInv (s : State) : Prop := byteAt s.fb 0 = Config.dataPrefix

/-- MORE is set only behind a first error (10_state.md R24). -/
abbrev ErrInv (s : State) : Prop := s.err.more = true → s.err.code ≠ .noError

/-- `irq_prev` is the pin level sampled after the last step (10_state.md R37). -/
abbrev Settled (s : State) : Prop := s.irqPrev = irqLevel s.radio

/-- The detector is never both armed and pending (42_radio_framer.md R170, R171). -/
abbrev WakeInv (s : State) : Prop := ¬(s.status.wakeArmed = true ∧ s.status.wakePending = true)

/-- The transceiver (10_state.md R40): an absent one is never configured; before configuration it is OFF with no flag,
no payload and no send in flight; once configured it listens or transmits; its queue keeps its depth. -/
abbrev RadioInv (s : State) : Prop :=
  (s.radio.present = false → s.radio.cfg = false) ∧
  (s.radio.cfg = false →
    s.radio.mode = .off ∧ s.radio.fSent = false ∧ s.radio.fFailed = false ∧ s.radio.fReady = false ∧
      s.radio.rxq = [] ∧ s.radio.txp = false) ∧
  (s.radio.cfg = true → s.radio.mode ≠ .off) ∧
  s.radio.rxq.length ≤ s.params.rxDepth

/-- STATUS agrees with the transceiver: before RINIT nothing is known; after a failed RINIT the transceiver is
unconfigured; after a good one it is configured and LISTENING mirrors its mode (10_state.md R34, R35). -/
abbrev LinkInv (s : State) : Prop :=
  (s.status.radioInit = false → s.status.radioFail = false ∧ s.status.listening = false) ∧
  (s.status.radioFail = true → s.radio.cfg = false ∧ s.status.listening = false) ∧
  (s.status.radioInit = true → s.status.radioFail = false →
    s.radio.cfg = true ∧ s.status.listening = decide (s.radio.mode = .rx))

/-- The parameters are in their ranges (00_scope.md R6). -/
abbrev ParamsInv (s : State) : Prop := s.params.wf = true

/-- An access refused since the block's last reset was refused in this run (10_state.md R39, R45; log 5). -/
abbrev MarkInv (s : State) : Prop := s.refused = true → s.refusedInRun = true

/-- The invariant of every run. -/
structure Inv (s : State) : Prop where
  latch : LatchInv s
  cmd : CmdInv s
  fbPrefix : PrefixInv s
  err : ErrInv s
  settled : Settled s
  wake : WakeInv s
  radio : RadioInv s
  link : LinkInv s
  params : ParamsInv s
  mark : MarkInv s

/-! ### Frames: what a step leaves as it was. A statement's frame puts the fields a command writes back and says that
the rest of the state is as before. -/

/-- What every command leaves as it was, whichever it is and however it ends: ARG0 to ARG3, CMD, TEXT, TXBUF, the
two `refused` marks, the parameters and FONT, the turns to come, the host's last read. -/
def CommandFrame (s t : State) : Prop :=
  t.arg0 = s.arg0 ∧ t.arg1 = s.arg1 ∧ t.arg2 = s.arg2 ∧ t.arg3 = s.arg3 ∧ t.cmd = s.cmd ∧ t.text = s.text ∧
    t.txbuf = s.txbuf ∧ t.refused = s.refused ∧ t.refusedInRun = s.refusedInRun ∧ t.params = s.params ∧ t.inputs = s.inputs ∧
    t.hostData = s.hostData

/-- STATUS with BUSY 0 and DONE 1, the rest as it was (20_memory.md R72). -/
def doneStatus (st : Status) : Status := { st with busy := false, done := true }

/-- ERR after an error of code `c` (60_exceptions.md R190): the first code stays, and MORE records the later ones. -/
def firstError (c : ErrorCode) (e : Err) : Err :=
  if e.code = .noError then ⟨c, e.more⟩ else ⟨e.code, true⟩

/-- The whole state after a command that raises an engine-step error (20_memory.md R72; 60_exceptions.md R190). -/
def afterError (c : ErrorCode) (s : State) : State :=
  { s with err := firstError c s.err, status := { s.status with busy := false }, latch := none }

/-- Whether the pin, from `prev` on through the levels of the list, makes a transition to `level`
(42_radio_framer.md R171). -/
def sees (level : Bool) : Bool → List Bool → Bool
  | _, [] => false
  | prev, l :: ls => (prev != level && l == level) || sees level l ls

/-- The detector's state in `t`, when the pin has shown it these levels since `s` (42_radio_framer.md R171). -/
def DetectorSaw (s t : State) (pins : List Bool) : Prop :=
  t.status.wakeLevel = s.status.wakeLevel ∧
  t.status.wakePending = (s.status.wakePending || (s.status.wakeArmed && sees s.status.wakeLevel s.irqPrev pins)) ∧
  t.status.wakeArmed = (s.status.wakeArmed && !sees s.status.wakeLevel s.irqPrev pins) ∧
  t.irqPrev = pins.getLastD s.irqPrev

/-- STATUS with the detector's two writable bits as in `st`. -/
def withDetector (u st : Status) : Status := { u with wakeArmed := st.wakeArmed, wakePending := st.wakePending }

/-- RADIO with its three latched flags cleared (42_radio_framer.md R150, RFLAGS). -/
def flagsCleared (r : Radio) : Radio := { r with fSent := false, fFailed := false, fReady := false }

/-- `r'` is RADIO after an RSEND of outcome `o` from `r` (42_radio_framer.md R163): an earlier send in flight first
latches f_sent or f_failed; ACK may latch f_sent, MAX_RT may latch f_failed, TIMEOUT leaves the send in flight. -/
def SendOf (r : Radio) (o : SendOutcome) (r' : Radio) : Prop :=
  ∃ early keep : Bool, r' = { r with
    fSent := (r.fSent || (r.txp && early)) || (o == .ack && keep)
    fFailed := (r.fFailed || (r.txp && !early)) || (o == .maxRt && keep)
    txp := o == .timeout }

/-- The payload is a ping: "!PING" and 0x00, whatever follows (42_radio_framer.md R165). -/
abbrev HoldsPing (p : Payload) : Prop :=
  byteAt p 0 = 0x21#8 ∧ byteAt p 1 = 0x50#8 ∧ byteAt p 2 = 0x49#8 ∧ byteAt p 3 = 0x4E#8 ∧ byteAt p 4 = 0x47#8 ∧
    byteAt p 5 = 0x00#8

/-- The pixel of FB at (x, y), by the byte and bit of 40_renderer.md R105. -/
def pixelBit (s : State) (x y : Nat) : Bool := (byteAt s.fb (1 + y / 8 * 128 + x)).getLsbD (y % 8)

/-! ### Good runs -/

/-- The machine's run is one the spec makes claims about (10_state.md R39): the invariant holds and the `refused` mark
of the whole run is clear. -/
def GoodRun (s : State) : Prop := Inv s ∧ s.refusedInRun = false

end Sys2Proof.Machine
end

