-- ==== Sys2Proof/Certificates/Slice0/Obligations.lean ====
section
/-! DEFINITION. The statements for the provers, one Prop for each, from the numbered rules of spec/. A frame is
written by putting the fields a step writes back as they were and saying that the result is the old state. -/

open Sys2Proof Sys2Proof.Machine

/-! ### Encoding -/

/-- 30_encoding.md R86, R91: the decoder accepts exactly the words the encoder writes, each as its own command, over
all 2^32 words. -/
def Obligations.DecodesExactlyTheEncodedWords : Prop :=
  ∀ (w : Word) (i : Instr), decode w = .ok i ↔ w = encode i

/-- 30_encoding.md R86, R89: ILLEGAL exactly when OP is not in the table, RSVD exactly when OP is in the table and a
reserved bit (31:10, or 8 or 9 where the table reserves it) is 1. -/
def Obligations.RejectsIllegalThenReserved : Prop :=
  ∀ w : Word,
    (decode w = .error .illegal ↔
      (w.extractLsb' 0 8).toNat ∉
        [0x00, 0x10, 0x11, 0x12, 0x13, 0x14, 0x15, 0x20, 0x21, 0x30, 0x31, 0x32, 0x33, 0x34, 0x35, 0x36, 0x40]) ∧
    (decode w = .error .rsvd ↔
      (w.extractLsb' 0 8).toNat ∈
        [0x00, 0x10, 0x11, 0x12, 0x13, 0x14, 0x15, 0x20, 0x21, 0x30, 0x31, 0x32, 0x33, 0x34, 0x35, 0x36, 0x40] ∧
      ∃ k, 8 ≤ k ∧ k < 32 ∧ w.getLsbD k = true ∧
        ¬(k = 8 ∧ (w.extractLsb' 0 8).toNat ∈ [0x11, 0x13, 0x40]) ∧ ¬(k = 9 ∧ (w.extractLsb' 0 8).toNat = 0x15))

/-- 30_encoding.md R91: a few command words, written out from the spec's table, decode to their commands. -/
def Obligations.SampleWordsDecode : Prop :=
  decode 0x00000000#32 = .ok .nop ∧ decode 0x00000111#32 = .ok (.pset true) ∧
  decode 0x00000013#32 = .ok (.line false) ∧ decode 0x00000215#32 = .ok (.text .msg) ∧
  decode 0x00000021#32 = .ok .push ∧ decode 0x00000036#32 = .ok .event ∧
  decode 0x00000140#32 = .ok (.armwake true) ∧ decode 0x00000211#32 = .error .rsvd ∧
  decode 0x000000FF#32 = .error .illegal

/-! ### The engine's turn -/

/-- 20_memory.md R72: at the engine's turn, with a legal command latched and BUSY = 1, the step is that command's
meaning at the state with the turn taken off the list; nothing is added around it. -/
def Obligations.EngineTurnRunsLatchedCommand : Prop :=
  ∀ (s : State) (rest : List Turn) (l : Latch) (i : Instr),
    s.inputs = .engine :: rest → s.status.busy = true → s.latch = some l → decode l.word = .ok i →
    step s = exec i { s with inputs := rest }

/-- 20_memory.md R72: "The engine has a step exactly when BUSY = 1"; a turn given to it while BUSY = 0 changes nothing
of the machine (the model's form, log 9). -/
def Obligations.EngineHasNoStepWhileIdle : Prop :=
  ∀ (s : State) (rest : List Turn), s.inputs = .engine :: rest → s.status.busy = false →
    step s = .next { s with inputs := rest }

/-- The model's own fetch (log 19): a table word placed by `withFetchWord` is what the very next step runs. -/
def Obligations.PlacedWordRunsNext : Prop :=
  ∀ (s : State) (nbits w : Nat) (i : Instr), decodeTableWord nbits w = some i →
    step (s.withFetchWord nbits w) = exec i { s.withFetchWord nbits w with inputs := s.inputs }

/-! ### Acceptance and the register window -/

/-- 20_memory.md R70: a host write to CMD, the checks in their order, and the whole of each outcome. -/
def Obligations.CommandWriteIsAcceptedOrRejected : Prop :=
  ∀ (s : State) (rest : List Turn) (w : Word), Settled s → s.inputs = .hostWrite 32 0x000#12 w :: rest →
    step s = .next
      (if s.status.busy = true then { s with inputs := rest, err := firstError .busy s.err }
       else if decode w = .error .illegal then { s with inputs := rest, err := firstError .illegal s.err }
       else if decode w = .error .rsvd then { s with inputs := rest, err := firstError .rsvd s.err }
       else
        { s with
          inputs := rest
          cmd := w
          latch := some ⟨w, s.arg0, s.arg1, s.arg2, s.arg3⟩
          status := { s.status with busy := true, done := false } })

/-- 20_memory.md R71, R60; 10_state.md R21, R23, R24: a write to TEXT or TXBUF while BUSY = 1 raises BUSY and stores
nothing; whatever BUSY is, an ARG write stores its low 16 bits and nothing else (so not the latch), and STATUS and ERR
writes have their effect. That a write to the word at 0x174, one byte of TXBUF and three pads, is a write to TXBUF is
DEDUCED (log 29). -/
def Obligations.WritesAroundBusy : Prop :=
  ∀ (s : State) (rest : List Turn) (off : Offset) (v : Word), Settled s → s.inputs = .hostWrite 32 off v :: rest →
    (s.status.busy = true → off.toNat % 4 = 0 →
      (0x100 ≤ off.toNat ∧ off.toNat < 0x120 ∨ 0x160 ≤ off.toNat ∧ off.toNat < 0x178) →
      step s = .next { s with inputs := rest, err := firstError .busy s.err }) ∧
    (off = 0x00C#12 → step s = .next { s with inputs := rest, arg0 := v.extractLsb' 0 16 }) ∧
    (off = 0x010#12 → step s = .next { s with inputs := rest, arg1 := v.extractLsb' 0 16 }) ∧
    (off = 0x014#12 → step s = .next { s with inputs := rest, arg2 := v.extractLsb' 0 16 }) ∧
    (off = 0x018#12 → step s = .next { s with inputs := rest, arg3 := v.extractLsb' 0 16 }) ∧
    (off = 0x004#12 → step s = .next { s with
      inputs := rest
      status := { s.status with
        done := s.status.done && !v.getLsbD 1, wakePending := s.status.wakePending && !v.getLsbD 13 } }) ∧
    (off = 0x008#12 → step s = .next { s with inputs := rest, err := ⟨.noError, false⟩ })

/-- 20_memory.md R61, R60, R64: an idle write to a word of TEXT or TXBUF stores its four bytes in their little-endian
lanes and no other byte; bytes past the end of TXBUF are not stored. -/
def Obligations.WindowStoresLittleEndian : Prop :=
  ∀ (s : State) (rest : List Turn) (off : Offset) (v : Word), Settled s → s.status.busy = false →
    s.inputs = .hostWrite 32 off v :: rest → off.toNat % 4 = 0 →
    (0x100 ≤ off.toNat → off.toNat < 0x120 →
      ∃ t, step s = .next t ∧ { t with text := s.text } = { s with inputs := rest } ∧
        ∀ k, k < 32 → byteAt t.text k =
          if k / 4 = (off.toNat - 0x100) / 4 then v.extractLsb' (8 * (k % 4)) 8 else byteAt s.text k) ∧
    (0x160 ≤ off.toNat → off.toNat < 0x178 →
      ∃ t, step s = .next t ∧ { t with txbuf := s.txbuf } = { s with inputs := rest } ∧
        ∀ k, k < 21 → byteAt t.txbuf k =
          if k / 4 = (off.toNat - 0x160) / 4 then v.extractLsb' (8 * (k % 4)) 8 else byteAt s.txbuf k)

/-- 20_memory.md R60, R61, R62: a read of a word of a byte window returns its bytes in their lanes, pad bytes 0. -/
def Obligations.WindowReadsLittleEndian : Prop :=
  ∀ (s : State) (rest : List Turn) (off : Offset), s.inputs = .hostRead 32 off :: rest → off.toNat % 4 = 0 →
    ∀ lane, lane < 4 →
    (0x100 ≤ off.toNat → off.toNat < 0x120 →
      ∃ t w, step s = .next t ∧ t.hostData = some w ∧
        w.extractLsb' (8 * lane) 8 = byteAt s.text (off.toNat - 0x100 + lane)) ∧
    (0x140 ≤ off.toNat → off.toNat < 0x158 →
      ∃ t w, step s = .next t ∧ t.hostData = some w ∧
        w.extractLsb' (8 * lane) 8 =
          if off.toNat - 0x140 + lane < 21 then byteAt s.msg (off.toNat - 0x140 + lane) else 0#8) ∧
    (0x160 ≤ off.toNat → off.toNat < 0x178 →
      ∃ t w, step s = .next t ∧ t.hostData = some w ∧
        w.extractLsb' (8 * lane) 8 =
          if off.toNat - 0x160 + lane < 21 then byteAt s.txbuf (off.toNat - 0x160 + lane) else 0#8) ∧
    (0x400 ≤ off.toNat → off.toNat < 0x604 →
      ∃ t w, step s = .next t ∧ t.hostData = some w ∧
        w.extractLsb' (8 * lane) 8 =
          if off.toNat - 0x400 + lane < 513 then byteAt s.fb (off.toNat - 0x400 + lane) else 0#8)

/-- 10_state.md R21 to R24, 60_exceptions.md R191: what a read of CMD, STATUS, ERR and ARG0 to ARG3 returns. Of an ARG
read only bits 15:0 are stated, on which R21 and 20_memory.md R64 agree; bits 31:16 are the model's choice (log 4). That
the value read stands in `hostData` is the model's form (log 7). -/
def Obligations.RegisterReadsReturnTheirFields : Prop :=
  ∀ (s : State) (rest : List Turn) (off : Offset), s.inputs = .hostRead 32 off :: rest →
    (off = 0x000#12 → ∃ t, step s = .next t ∧ t.hostData = some s.cmd) ∧
    (off = 0x004#12 → ∃ t w, step s = .next t ∧ t.hostData = some w ∧
      w.getLsbD 0 = s.status.busy ∧ w.getLsbD 1 = s.status.done ∧ w.getLsbD 2 = s.status.dispInit ∧
      w.getLsbD 3 = s.status.radioInit ∧ w.getLsbD 4 = s.status.radioFail ∧ w.getLsbD 5 = s.status.listening ∧
      w.getLsbD 6 = s.status.evSent ∧ w.getLsbD 7 = s.status.evFailed ∧ w.getLsbD 8 = s.status.evReady ∧
      w.getLsbD 9 = s.status.txOk ∧ w.getLsbD 10 = s.status.pixel ∧ w.getLsbD 11 = s.status.ping ∧
      w.getLsbD 12 = s.status.wakeArmed ∧ w.getLsbD 13 = s.status.wakePending ∧
      w.getLsbD 14 = s.status.wakeLevel ∧ ∀ k, 15 ≤ k → w.getLsbD k = false) ∧
    (off = 0x008#12 → ∃ t w, step s = .next t ∧ t.hostData = some w ∧
      (w.extractLsb' 0 4).toNat =
        (match s.err.code with
          | .noError => 0
          | .illegal => 1
          | .rsvd => 2
          | .busy => 3
          | .notInit => 4
          | .oneshot => 5
          | .radioDown => 6) ∧
      w.getLsbD 4 = s.err.more ∧ ∀ k, 5 ≤ k → w.getLsbD k = false) ∧
    (off = 0x00C#12 → ∃ t w, step s = .next t ∧ t.hostData = some w ∧ w.extractLsb' 0 16 = s.arg0) ∧
    (off = 0x010#12 → ∃ t w, step s = .next t ∧ t.hostData = some w ∧ w.extractLsb' 0 16 = s.arg1) ∧
    (off = 0x014#12 → ∃ t w, step s = .next t ∧ t.hostData = some w ∧ w.extractLsb' 0 16 = s.arg2) ∧
    (off = 0x018#12 → ∃ t w, step s = .next t ∧ t.hostData = some w ∧ w.extractLsb' 0 16 = s.arg3)

/-- 20_memory.md R63 with R60, 10_state.md R39: the three grounds of refusal; a refused access sets the mark, returns no
value and changes nothing else; any other access is not refused. The two marks are the model's form (log 5), and so is
`hostData` (log 7); that the detector is not evaluated after a refused access, which shows only in a state that is not
settled, is DEDUCED (log 20). -/
def Obligations.AccessIsRefusedExactlyWhenIllFormed : Prop :=
  ∀ (s : State) (rest : List Turn) (width : Nat) (off : Offset) (v : Word),
    let bad := width ≠ 32 ∨ off.toNat % 4 ≠ 0 ∨
      ¬(off.toNat ≤ 0x18 ∨ 0x100 ≤ off.toNat ∧ off.toNat < 0x120 ∨ 0x140 ≤ off.toNat ∧ off.toNat < 0x158 ∨
        0x160 ≤ off.toNat ∧ off.toNat < 0x178 ∨ 0x400 ≤ off.toNat ∧ off.toNat < 0x604)
    (s.inputs = .hostRead width off :: rest →
      (bad → step s = .next
        { s with inputs := rest, refused := true, refusedInRun := true, hostData := none }) ∧
      (¬bad → ∃ t w, step s = .next t ∧ t.refused = s.refused ∧ t.refusedInRun = s.refusedInRun ∧
        t.hostData = some w)) ∧
    (s.inputs = .hostWrite width off v :: rest →
      (bad → step s = .next { s with inputs := rest, refused := true, refusedInRun := true }) ∧
      (¬bad → ∃ t, step s = .next t ∧ t.refused = s.refused ∧ t.refusedInRun = s.refusedInRun))

/-- 20_memory.md R65: a host read changes no state of the machine: only the model's record of what the host saw (log
7) and, for a refused one, the marks. -/
def Obligations.ReadHasNoSideEffect : Prop :=
  ∀ (s : State) (rest : List Turn) (width : Nat) (off : Offset), Settled s →
    s.inputs = .hostRead width off :: rest →
    ∃ t, step s = .next t ∧
      { t with hostData := s.hostData, refused := s.refused, refusedInRun := s.refusedInRun } = { s with inputs := rest }

/-- 20_memory.md R62, R64: a host write to MSG or to the framebuffer window is ignored. -/
def Obligations.ReadOnlyWindowsIgnoreWrites : Prop :=
  ∀ (s : State) (rest : List Turn) (off : Offset) (v : Word), Settled s →
    s.inputs = .hostWrite 32 off v :: rest → off.toNat % 4 = 0 →
    (0x140 ≤ off.toNat ∧ off.toNat < 0x158 ∨ 0x400 ≤ off.toNat ∧ off.toNat < 0x604) →
    step s = .next { s with inputs := rest }

/-! ### NOP and the renderer -/

/-- 30_encoding.md R94: NOP completes and does nothing else. -/
def Obligations.NopOnlyCompletes : Prop :=
  ∀ s : State, Settled s → exec .nop s = .next { s with status := doneStatus s.status, latch := none }

/-- 40_renderer.md R108: CLEAR zeroes bytes 1 to 512, keeps byte 0, and writes nothing else but its completion. -/
def Obligations.ClearZeroesPixelBytes : Prop :=
  ∀ s : State, Settled s →
    ∃ t, exec .clear s = .next t ∧ (∀ i, 1 ≤ i → i ≤ 512 → byteAt t.fb i = 0#8) ∧ byteAt t.fb 0 = byteAt s.fb 0 ∧
      t.status = doneStatus s.status ∧ t.latch = none ∧
      { t with fb := s.fb, status := s.status, latch := s.latch } = s

/-- 40_renderer.md R105 to R107, R109: PSET writes exactly the pixel at its coordinates, if it is in range, and no other
pixel, nor FB[0], nor anything else but its completion. -/
def Obligations.PsetWritesExactlyItsPixel : Prop :=
  ∀ (s : State) (l : Latch) (on : Bool), Settled s → s.latch = some l →
    ∃ t, exec (.pset on) s = .next t ∧
      (∀ x y : Nat, x < 128 → y < 32 →
        pixelBit t x y = if (x : Int) = l.a0.toInt ∧ (y : Int) = l.a1.toInt then on else pixelBit s x y) ∧
      byteAt t.fb 0 = byteAt s.fb 0 ∧ t.status = doneStatus s.status ∧ t.latch = none ∧
      { t with fb := s.fb, status := s.status, latch := s.latch } = s

/-- 40_renderer.md R111: PGET puts the pixel's bit, or 0 out of range, in PIXEL and changes no byte of FB. -/
def Obligations.PgetReadsPixel : Prop :=
  ∀ (s : State) (l : Latch), Settled s → s.latch = some l →
    ∃ t, exec .pget s = .next t ∧
      (∀ x y : Nat, x < 128 → y < 32 → l.a0.toInt = x → l.a1.toInt = y → t.status.pixel = pixelBit s x y) ∧
      (¬(0 ≤ l.a0.toInt ∧ l.a0.toInt < 128 ∧ 0 ≤ l.a1.toInt ∧ l.a1.toInt < 32) → t.status.pixel = false) ∧
      { t.status with pixel := s.status.pixel } = doneStatus s.status ∧ t.latch = none ∧
      { t with status := s.status, latch := s.latch } = s

/-- 40_renderer.md R112: in range, PSET then PGET of the same coordinates gives PIXEL = on; out of range, PSET changes
no byte of FB. The spec's own inference (R112). -/
def Obligations.PsetThenPgetReportsOn : Prop :=
  ∀ (s : State) (l : Latch) (on : Bool), s.latch = some l →
    ((0 ≤ l.a0.toInt ∧ l.a0.toInt < 128 ∧ 0 ≤ l.a1.toInt ∧ l.a1.toInt < 32) →
      ∃ t u, exec (.pset on) s = .next t ∧ exec .pget { t with latch := some l } = .next u ∧ u.status.pixel = on) ∧
    (¬(0 ≤ l.a0.toInt ∧ l.a0.toInt < 128 ∧ 0 ≤ l.a1.toInt ∧ l.a1.toInt < 32) →
      ∃ t, exec (.pset on) s = .next t ∧ t.fb = s.fb)

/-- 40_renderer.md R114: LINE gives every in-range cell of LinePoints the value `on` and leaves every other pixel, FB[0]
and everything else but its completion. -/
def Obligations.LineDrawsExactlyItsCells : Prop :=
  ∀ (s : State) (l : Latch) (on : Bool), Settled s → s.latch = some l →
    ∃ t, exec (.line on) s = .next t ∧
      (∀ x y : Nat, x < 128 → y < 32 →
        pixelBit t x y =
          if ((x : Int), (y : Int)) ∈ linePoints l.a0.toInt l.a1.toInt l.a2.toInt l.a3.toInt then on
          else pixelBit s x y) ∧
      byteAt t.fb 0 = byteAt s.fb 0 ∧ t.status = doneStatus s.status ∧ t.latch = none ∧
      { t with fb := s.fb, status := s.status, latch := s.latch } = s

/-- 40_renderer.md R115: LinePoints starts and ends at its endpoints, has max(|dx|, |dy|) + 1 cells, all different;
consecutive cells differ by at most 1 in each coordinate, and by exactly 1 toward the end along the major axis. The spec's own inference from
its choice of line variant (log 18). -/
def Obligations.LinePointsShape : Prop :=
  ∀ x0 y0 x1 y1 : Int,
    (linePoints x0 y0 x1 y1).head? = some (x0, y0) ∧ (linePoints x0 y0 x1 y1).getLast? = some (x1, y1) ∧
    (linePoints x0 y0 x1 y1).length = max (x1 - x0).natAbs (y1 - y0).natAbs + 1 ∧
    (linePoints x0 y0 x1 y1).Nodup ∧
    ∀ (k : Nat) (p q : Int × Int),
      (linePoints x0 y0 x1 y1)[k]? = some p → (linePoints x0 y0 x1 y1)[k + 1]? = some q →
      (q.1 - p.1).natAbs ≤ 1 ∧ (q.2 - p.2).natAbs ≤ 1 ∧
      ((y1 - y0).natAbs ≤ (x1 - x0).natAbs → q.1 - p.1 = (x1 - x0).sign) ∧
      ((x1 - x0).natAbs < (y1 - y0).natAbs → q.2 - p.2 = (y1 - y0).sign)

/-- 40_renderer.md R117: the cells of horizontal, vertical and 45-degree lines. The spec's own inference (R117). -/
def Obligations.StraightLinesCoverTheirCells : Prop :=
  ∀ x0 y0 x1 y1 x y : Int,
    (y0 = y1 → ((x, y) ∈ linePoints x0 y0 x1 y1 ↔ y = y0 ∧ min x0 x1 ≤ x ∧ x ≤ max x0 x1)) ∧
    (x0 = x1 → ((x, y) ∈ linePoints x0 y0 x1 y1 ↔ x = x0 ∧ min y0 y1 ≤ y ∧ y ≤ max y0 y1)) ∧
    ((x1 - x0).natAbs = (y1 - y0).natAbs →
      ((x, y) ∈ linePoints x0 y0 x1 y1 ↔
        ∃ k : Nat, k ≤ (x1 - x0).natAbs ∧ x = x0 + k * (x1 - x0).sign ∧ y = y0 + k * (y1 - y0).sign))

/-- 40_renderer.md R120: PSET x, y, on has the effect on FB of LINE x, y, x, y, on. The spec's own inference (R120). -/
def Obligations.PsetEqualsDegenerateLine : Prop :=
  ∀ (s : State) (l : Latch) (on : Bool), s.latch = some l →
    ∃ t u, exec (.pset on) s = .next t ∧
      exec (.line on) { s with latch := some { l with a2 := l.a0, a3 := l.a1 } } = .next u ∧ t.fb = u.fb

/-- 70_reset_and_hazards.md R233: LINE with on = 0 clears exactly the cells LINE with on = 1 and the same endpoints
set: afterwards the line's cells are 0 and every other pixel is as before both. The spec's own inference (R233). -/
def Obligations.LineIsErasedBySameLine : Prop :=
  ∀ (s : State) (l : Latch), s.latch = some l →
    ∃ t u, exec (.line true) s = .next t ∧ exec (.line false) { t with latch := some l } = .next u ∧
      ∀ x y : Nat, x < 128 → y < 32 →
        (((x : Int), (y : Int)) ∈ linePoints l.a0.toInt l.a1.toInt l.a2.toInt l.a3.toInt →
          pixelBit t x y = true ∧ pixelBit u x y = false) ∧
        (((x : Int), (y : Int)) ∉ linePoints l.a0.toInt l.a1.toInt l.a2.toInt l.a3.toInt →
          pixelBit t x y = pixelBit s x y ∧ pixelBit u x y = pixelBit s x y)

/-- 40_renderer.md R122, R123: GLYPH writes each on-screen column byte of a printable glyph over the framebuffer byte of
its page, and nothing else; not printable or y off screen writes nothing. -/
def Obligations.GlyphWritesItsColumns : Prop :=
  ∀ (s : State) (l : Latch), Settled s → s.latch = some l →
    ∃ t, exec .glyph s = .next t ∧
      (∀ page col : Nat, page < 4 → col < 128 →
        byteAt t.fb (1 + page * 128 + col) =
          let ch := (l.a2.extractLsb' 0 8).toNat
          let i := (col : Int) - l.a0.toInt
          if 0x20 ≤ ch ∧ ch ≤ 0x7E ∧ 0 ≤ l.a1.toInt ∧ l.a1.toInt < 32 ∧ (page : Int) = l.a1.toInt / 8 ∧
              0 ≤ i ∧ i < s.params.glyphWidth then
            (s.params.font.getD (ch - 0x20) []).getD i.toNat 0#8
          else byteAt s.fb (1 + page * 128 + col)) ∧
      byteAt t.fb 0 = byteAt s.fb 0 ∧ t.status = doneStatus s.status ∧ t.latch = none ∧
      { t with fb := s.fb, status := s.status, latch := s.latch } = s

/-- 40_renderer.md R126 to R128, R130: TEXT writes column i of the glyph of byte j of the string at column
x + j * pitch + i of page y div 8, for printable bytes and on-screen columns, and nothing else. -/
def Obligations.TextWritesItsGlyphs : Prop :=
  ∀ (s : State) (l : Latch) (src : TextSource), Settled s → s.latch = some l →
    let str : List Byte := (match src with
      | .textRam => s.text.toList
      | .msg => s.msg.toList).takeWhile (fun c => c != 0#8)
    let pitch : Nat := s.params.glyphWidth + s.params.glyphPad
    ∃ t, exec (.text src) s = .next t ∧
      (∀ page col j i : Nat, ∀ c : Byte, page < 4 → col < 128 → str[j]? = some c → i < s.params.glyphWidth →
        0x20 ≤ c.toNat → c.toNat ≤ 0x7E → (page : Int) = l.a1.toInt / 8 →
        (col : Int) = l.a0.toInt + (j * pitch : Nat) + i →
        byteAt t.fb (1 + page * 128 + col) = (s.params.font.getD (c.toNat - 0x20) []).getD i 0#8) ∧
      (∀ page col : Nat, page < 4 → col < 128 →
        (¬∃ j i : Nat, ∃ c : Byte, str[j]? = some c ∧ i < s.params.glyphWidth ∧ 0x20 ≤ c.toNat ∧ c.toNat ≤ 0x7E ∧
          (page : Int) = l.a1.toInt / 8 ∧ (col : Int) = l.a0.toInt + (j * pitch : Nat) + i) →
        byteAt t.fb (1 + page * 128 + col) = byteAt s.fb (1 + page * 128 + col)) ∧
      byteAt t.fb 0 = byteAt s.fb 0 ∧ t.status = doneStatus s.status ∧ t.latch = none ∧
      { t with fb := s.fb, status := s.status, latch := s.latch } = s

/-- 40_renderer.md R129: TEXT of an empty string changes no pixel; TEXT twice gives the FB of TEXT once. The spec's own
inference (R129). -/
def Obligations.TextIsIdempotent : Prop :=
  ∀ (s : State) (l : Latch) (src : TextSource), s.latch = some l →
    ∃ t u, exec (.text src) s = .next t ∧ exec (.text src) { t with latch := some l } = .next u ∧ u.fb = t.fb ∧
      ((match src with
        | .textRam => byteAt s.text 0
        | .msg => byteAt s.msg 0) = 0#8 → t.fb = s.fb)

/-! ### Display transport -/

/-- 41_display_transport.md R136, R137: the first DINIT sends the thirteen transactions in order, each behind 0x00 to
address 0x3C, and sets DISP_INIT; it reads and writes nothing else. The byte values and the address are the
spec's defaults from general knowledge (log 18). -/
def Obligations.DinitSendsInitSequence : Prop :=
  ∀ s : State, Settled s → s.status.dispInit = false →
    exec .dinit s = .next { s with
      dlog := s.dlog ++
        [⟨0x3C#7, [0x00#8, 0xAE#8]⟩, ⟨0x3C#7, [0x00#8, 0xA8#8, 0x1F#8]⟩, ⟨0x3C#7, [0x00#8, 0xD3#8, 0x00#8]⟩,
         ⟨0x3C#7, [0x00#8, 0x40#8]⟩, ⟨0x3C#7, [0x00#8, 0xA1#8]⟩, ⟨0x3C#7, [0x00#8, 0xC8#8]⟩,
         ⟨0x3C#7, [0x00#8, 0xDA#8, 0x02#8]⟩, ⟨0x3C#7, [0x00#8, 0x81#8, 0x8F#8]⟩, ⟨0x3C#7, [0x00#8, 0x8D#8, 0x14#8]⟩,
         ⟨0x3C#7, [0x00#8, 0x20#8, 0x00#8]⟩, ⟨0x3C#7, [0x00#8, 0x21#8, 0x00#8, 0x7F#8]⟩,
         ⟨0x3C#7, [0x00#8, 0x22#8, 0x00#8, 0x03#8]⟩, ⟨0x3C#7, [0x00#8, 0xAF#8]⟩]
      status := { doneStatus s.status with dispInit := true }
      latch := none }

/-- 41_display_transport.md R139; 42_radio_framer.md R152; 70_reset_and_hazards.md R234, the spec's own inference: a
second DINIT and a second RINIT raise ONESHOT and do nothing else. That DONE is then not written, rather than written 0,
is DEDUCED (log 27); with DONE = 0, as at every engine step of a run, the two are one. -/
def Obligations.SecondInitRaisesOneshot : Prop :=
  ∀ s : State, Settled s →
    (s.status.dispInit = true → exec .dinit s = .next (afterError .oneshot s)) ∧
    (s.status.radioInit = true → exec .rinit s = .next (afterError .oneshot s))

/-- 41_display_transport.md R140: PUSH sends FB[0] to FB[512] in index order in one transaction to 0x3C, and changes
nothing else but its completion. The address is the spec's default from general knowledge (log 18). -/
def Obligations.PushSendsWholeFrame : Prop :=
  ∀ s : State, Settled s → s.status.dispInit = true →
    ∃ t frame, exec .push s = .next t ∧ t.dlog = s.dlog ++ [⟨0x3C#7, frame⟩] ∧ frame.length = 513 ∧
      (∀ i, i < 513 → frame[i]? = some (byteAt s.fb i)) ∧ t.status = doneStatus s.status ∧ t.latch = none ∧
      { t with dlog := s.dlog, status := s.status, latch := s.latch } = s

/-- 41_display_transport.md R141: a PUSH before DINIT raises NOT_INIT and emits nothing. That DONE is then not written,
rather than written 0, is DEDUCED (log 27). -/
def Obligations.PushBeforeDinitRaisesNotInit : Prop :=
  ∀ s : State, Settled s → s.status.dispInit = false → exec .push s = .next (afterError .notInit s)

/-! ### Radio framer -/

/-- 42_radio_framer.md R150, R152: the first RINIT, with and without a transceiver. -/
def Obligations.RinitConfiguresOrRecordsFailure : Prop :=
  ∀ s : State, Inv s → s.status.radioInit = false →
    ∃ t, exec .rinit s = .next t ∧ t.rlog = s.rlog ++ [.rcfg s.radio.present] ∧
      (s.radio.present = true →
        t.radio = { s.radio with
          cfg := true, mode := .rx, fSent := false, fFailed := false, fReady := false, rxq := [], txp := false }) ∧
      (s.radio.present = false → t.radio = s.radio) ∧
      withDetector t.status s.status = { doneStatus s.status with
        radioInit := true, listening := s.radio.present, radioFail := !s.radio.present } ∧
      DetectorSaw s t [irqLevel t.radio] ∧ t.latch = none ∧
      { t with rlog := s.rlog, radio := s.radio, status := s.status, latch := s.latch, irqPrev := s.irqPrev } = s

/-- 42_radio_framer.md R153: LISTEN, UNLISTEN, POLL, RECV and XMIT raise NOT_INIT before RINIT and RADIO_DOWN after a
failed one, in that order, and then issue no radio operation and change nothing else. DONE left unwritten is log 27's. -/
def Obligations.RadioCommandsAreGated : Prop :=
  ∀ (s : State) (i : Instr), Settled s → i ∈ [.listen, .unlisten, .poll, .recv, .xmit] →
    (s.status.radioInit = false → exec i s = .next (afterError .notInit s)) ∧
    (s.status.radioInit = true → s.status.radioFail = true → exec i s = .next (afterError .radioDown s))

/-- 42_radio_framer.md R154, R155: LISTEN and UNLISTEN set the transceiver's mode and LISTENING, always by one RMODE, and
nothing else but their completion. -/
def Obligations.ListenAndUnlistenSetTheMode : Prop :=
  ∀ s : State, Inv s → s.status.radioInit = true → s.status.radioFail = false →
    exec .listen s = .next { s with
      radio := { s.radio with mode := .rx }, rlog := s.rlog ++ [.rmode .rx]
      status := { doneStatus s.status with listening := true }, latch := none } ∧
    exec .unlisten s = .next { s with
      radio := { s.radio with mode := .tx }, rlog := s.rlog ++ [.rmode .tx]
      status := { doneStatus s.status with listening := false }, latch := none }

/-- 42_radio_framer.md R156: POLL puts the three latched flags in the snapshot and clears them, and changes nothing else
but its completion and the detector. -/
def Obligations.PollReadsAndClearsFlags : Prop :=
  ∀ s : State, Inv s → s.status.radioInit = true → s.status.radioFail = false →
    ∃ t, exec .poll s = .next t ∧ t.radio = flagsCleared s.radio ∧
      t.rlog = s.rlog ++ [.rflags s.radio.fSent s.radio.fFailed s.radio.fReady] ∧
      withDetector t.status s.status = { doneStatus s.status with
        evSent := s.radio.fSent, evFailed := s.radio.fFailed, evReady := s.radio.fReady } ∧
      DetectorSaw s t [irqLevel (flagsCleared s.radio)] ∧ t.latch = none ∧
      { t with rlog := s.rlog, radio := s.radio, status := s.status, latch := s.latch, irqPrev := s.irqPrev } = s

/-- 42_radio_framer.md R158, R159: RECV moves the head of the receive queue to MSG, all 21 bytes; with an empty queue MSG
gets some 21 bytes (a free value, log 14). f_ready and everything else but the completion stay. -/
def Obligations.RecvMovesHeadToMsg : Prop :=
  ∀ s : State, Inv s → s.status.radioInit = true → s.status.radioFail = false →
    ∃ t p, exec .recv s = .next t ∧ t.msg = p ∧ (∀ q r, s.radio.rxq = q :: r → p = q) ∧
      t.radio = { s.radio with rxq := s.radio.rxq.tail } ∧ t.rlog = s.rlog ++ [.rread p] ∧
      t.status = doneStatus s.status ∧ t.latch = none ∧
      { t with
        msg := s.msg, rlog := s.rlog, radio := s.radio, status := s.status, latch := s.latch, draws := s.draws } = s

/-- 42_radio_framer.md R161 to R164: XMIT leaves listening mode (with an RMODE only if it was listening), sends TXBUF once
with some outcome, sets TX_OK exactly on ACK, and stays in transmitting mode. The outcome and the flags' fate are free
values (log 13). -/
def Obligations.XmitSendsTxbufOnce : Prop :=
  ∀ s : State, Inv s → s.status.radioInit = true → s.status.radioFail = false →
    ∃ t o, exec .xmit s = .next t ∧
      t.rlog = s.rlog ++ (if s.radio.mode = .rx then [.rmode .tx] else []) ++ [.rsend s.txbuf o] ∧
      SendOf { s.radio with mode := .tx } o t.radio ∧
      withDetector t.status s.status = { doneStatus s.status with listening := false, txOk := o == .ack } ∧
      DetectorSaw s t [irqLevel t.radio] ∧ t.latch = none ∧
      { t with
        rlog := s.rlog, radio := s.radio, status := s.status, latch := s.latch, irqPrev := s.irqPrev
        draws := s.draws } = s

/-- 42_radio_framer.md R166: EVENT with no data ready reads and clears the flags, takes the snapshot, clears PING, and
neither reads the queue nor sends (R169, the spec's own inference). What the detector sees while EVENT runs rests on
EVENT being one step, DEDUCED (log 25): R168 says a chip's pin levels inside EVENT can differ. -/
def Obligations.EventWithoutDataOnlyPolls : Prop :=
  ∀ s : State, Inv s → s.status.radioInit = true → s.status.radioFail = false → s.radio.fReady = false →
    ∃ t, exec .event s = .next t ∧ t.radio = flagsCleared s.radio ∧
      t.rlog = s.rlog ++ [.rflags s.radio.fSent s.radio.fFailed false] ∧
      withDetector t.status s.status = { doneStatus s.status with
        evSent := s.radio.fSent, evFailed := s.radio.fFailed, evReady := false, ping := false } ∧
      DetectorSaw s t [irqLevel (flagsCleared s.radio)] ∧ t.latch = none ∧
      { t with rlog := s.rlog, radio := s.radio, status := s.status, latch := s.latch, irqPrev := s.irqPrev } = s

/-- 42_radio_framer.md R165, R166: EVENT with f_ready = 1 reads a payload p, the queue's head or, from an empty queue,
drawn bytes (R150, R159; a free value, log 14); if p is no ping it stays in MSG and nothing is sent (R169, the spec's own
inference). What the detector sees while EVENT runs rests on EVENT being one step, DEDUCED (log 25): R168 says a chip's
pin levels inside EVENT can differ. -/
def Obligations.EventKeepsOtherPayloads : Prop :=
  ∀ s : State, Inv s → s.status.radioInit = true → s.status.radioFail = false → s.radio.fReady = true →
    ∃ t p, exec .event s = .next t ∧ t.msg = p ∧ (∀ q r, s.radio.rxq = q :: r → p = q) ∧
      (¬HoldsPing p →
        t.radio = { flagsCleared s.radio with rxq := s.radio.rxq.tail } ∧
        t.rlog = s.rlog ++ [.rflags s.radio.fSent s.radio.fFailed true, .rread p] ∧
        withDetector t.status s.status = { doneStatus s.status with
          evSent := s.radio.fSent, evFailed := s.radio.fFailed, evReady := true, ping := false } ∧
        DetectorSaw s t [irqLevel (flagsCleared s.radio)] ∧ t.latch = none ∧
        { t with
          msg := s.msg, rlog := s.rlog, radio := s.radio, status := s.status, latch := s.latch, irqPrev := s.irqPrev
          draws := s.draws } = s)

/-- 42_radio_framer.md R160, R161, R165, R166: EVENT with f_ready = 1 reads a payload p, the queue's head or, from an
empty queue, drawn bytes (R150, R159; a free value, log 14); if p is a ping it answers with exactly one PONG (R169, the
spec's own inference) and is listening again, whatever the outcome (a free value, log 13). The two pin levels the
detector sees while EVENT runs rest on EVENT being one step, DEDUCED (log 25): R168 says a chip's can differ. -/
def Obligations.EventAnswersPing : Prop :=
  ∀ s : State, Inv s → s.status.radioInit = true → s.status.radioFail = false → s.radio.fReady = true →
    ∃ t p, exec .event s = .next t ∧ t.msg = p ∧ (∀ q r, s.radio.rxq = q :: r → p = q) ∧
      (HoldsPing p →
        ∃ o reply radio,
          reply.toList = [0x21#8, 0x50#8, 0x4F#8, 0x4E#8, 0x47#8] ++ List.replicate 16 0x00#8 ∧
          t.rlog = s.rlog ++
            [.rflags s.radio.fSent s.radio.fFailed true, .rread p, .rmode .tx, .rsend reply o, .rmode .rx] ∧
          SendOf { flagsCleared s.radio with rxq := s.radio.rxq.tail, mode := .tx } o radio ∧
          t.radio = { radio with mode := .rx } ∧
          withDetector t.status s.status = { doneStatus s.status with
            evSent := s.radio.fSent, evFailed := s.radio.fFailed, evReady := true, ping := true, txOk := o == .ack
            listening := true } ∧
          DetectorSaw s t [irqLevel (flagsCleared s.radio), irqLevel t.radio] ∧ t.latch = none ∧
          { t with
            msg := s.msg, rlog := s.rlog, radio := s.radio, status := s.status, latch := s.latch, irqPrev := s.irqPrev
            draws := s.draws } = s)

/-- 42_radio_framer.md R166, R167: EVENT before RINIT raises NOT_INIT; after a failed RINIT it issues no radio operation,
clears its result bits, raises no error and completes. DONE left unwritten by NOT_INIT is log 27's. -/
def Obligations.EventWithoutARadio : Prop :=
  ∀ s : State, Settled s →
    (s.status.radioInit = false → exec .event s = .next (afterError .notInit s)) ∧
    (s.status.radioInit = true → s.status.radioFail = true →
      exec .event s = .next { s with
        status := { doneStatus s.status with evSent := false, evFailed := false, evReady := false, ping := false }
        latch := none })

/-- 42_radio_framer.md R161, R162, R166: no command but XMIT and EVENT sends, and neither sends more than once, in every
state. As a rule of all commands it is the spec's own inference (R169, derived there from R166). -/
def Obligations.OnlyXmitAndEventSend : Prop :=
  ∀ (s t : State) (i : Instr), exec i s = .next t →
    ∃ added, t.rlog = s.rlog ++ added ∧
      (added.filter fun e => match e with
        | .rsend _ _ => true
        | _ => false).length ≤ (match i with
          | .xmit => 1
          | .event => 1
          | _ => 0)

/-! ### Wake detector and the radio's own steps -/

/-- 42_radio_framer.md R170: ARMWAKE arms the detector for its level, clears WAKE_PENDING, and a pin already at that level
is no wake. -/
def Obligations.ArmwakeArmsTheDetector : Prop :=
  ∀ (s : State) (level : Bool),
    exec (.armwake level) s = .next { s with
      status := { doneStatus s.status with wakeLevel := level, wakePending := false, wakeArmed := true }
      irqPrev := irqLevel s.radio, latch := none }

/-- 42_radio_framer.md R171, 60_exceptions.md R198: in every state and whatever moves, a detector that is not armed sets
no WAKE_PENDING, and only the engine performing ARMWAKE arms it. -/
def Obligations.DisarmedDetectorStaysSilent : Prop :=
  ∀ s t : State, step s = .next t → s.status.wakeArmed = false →
    (t.status.wakePending = true → s.status.wakePending = true) ∧
    (t.status.wakeArmed = true →
      ∃ rest l level, s.inputs = .engine :: rest ∧ s.status.busy = true ∧ s.latch = some l ∧
        l.word = encode (.armwake level))

/-- 42_radio_framer.md R172: a packet that reaches a listening transceiver joins the queue and latches f_ready, or is lost
when the queue is full; when the step is not enabled nothing changes (log 9). -/
def Obligations.ArrivalQueuesOrIsLost : Prop :=
  ∀ (s : State) (rest : List Turn) (p : Payload), Settled s → s.inputs = .arrival p :: rest →
    ((s.radio.present = true ∧ s.radio.cfg = true ∧ s.radio.mode = .rx) →
      ∃ t, step s = .next t ∧
        t.radio = (if s.radio.rxq.length < s.params.rxDepth then
          { s.radio with rxq := s.radio.rxq ++ [p], fReady := true } else s.radio) ∧
        DetectorSaw s t [irqLevel t.radio] ∧
        { t with radio := s.radio, status := withDetector t.status s.status, irqPrev := s.irqPrev } =
          { s with inputs := rest }) ∧
    (¬(s.radio.present = true ∧ s.radio.cfg = true ∧ s.radio.mode = .rx) → step s = .next { s with inputs := rest })

/-- 42_radio_framer.md R173: a send in flight ends by latching f_sent or f_failed; when none is in flight nothing changes
(log 9). -/
def Obligations.LateCompletionLatchesOneFlag : Prop :=
  ∀ (s : State) (rest : List Turn) (sent : Bool), Settled s → s.inputs = .lateCompletion sent :: rest →
    (s.radio.txp = true →
      ∃ t, step s = .next t ∧
        t.radio = (if sent then { s.radio with txp := false, fSent := true }
          else { s.radio with txp := false, fFailed := true }) ∧
        DetectorSaw s t [irqLevel t.radio] ∧
        { t with radio := s.radio, status := withDetector t.status s.status, irqPrev := s.irqPrev } =
          { s with inputs := rest }) ∧
    (s.radio.txp = false → step s = .next { s with inputs := rest })

/-- 10_state.md R42, 42_radio_framer.md R174: without a transceiver the pin takes the drawn level and nothing else changes
but the detector; with one the turn is no step (log 9). -/
def Obligations.PinNoiseOnlyWithoutTransceiver : Prop :=
  ∀ (s : State) (rest : List Turn) (level : Bool), Settled s → s.inputs = .pinNoise level :: rest →
    (s.radio.present = false →
      ∃ t, step s = .next t ∧ t.radio = { s.radio with floatPin := level } ∧ irqLevel t.radio = level ∧
        DetectorSaw s t [level] ∧
        { t with radio := s.radio, status := withDetector t.status s.status, irqPrev := s.irqPrev } =
          { s with inputs := rest }) ∧
    (s.radio.present = true → step s = .next { s with inputs := rest })

/-- 42_radio_framer.md R157: no step but an engine's clears a latched flag, in every state. The spec's own inference (R157). -/
def Obligations.OnlyCommandsClearFlags : Prop :=
  ∀ (s t : State) (u : Turn) (rest : List Turn), s.inputs = u :: rest → u ≠ .engine → step s = .next t →
    (s.radio.fSent = true → t.radio.fSent = true) ∧ (s.radio.fFailed = true → t.radio.fFailed = true) ∧
      (s.radio.fReady = true → t.radio.fReady = true)

/-! ### Reset -/

/-- 10_state.md R43 to R45: the stated values at power-on and reset; the drawn ones have no value here. FB[0] = 0x40
is log 18's, and the mark of the whole run the model's form (log 5). -/
def Obligations.ResetLeavesStatedValues : Prop :=
  State.reset.arg0 = 0#16 ∧ State.reset.arg1 = 0#16 ∧ State.reset.arg2 = 0#16 ∧ State.reset.arg3 = 0#16 ∧
  State.reset.cmd = 0#32 ∧ statusWord State.reset.status = 0#32 ∧ errWord State.reset.err = 0#32 ∧
  State.reset.latch = none ∧ byteAt State.reset.fb 0 = 0x40#8 ∧ State.reset.irqPrev = irqLevel State.reset.radio ∧
  State.reset.refused = false ∧ State.reset.refusedInRun = false ∧ State.reset.radio.cfg = false ∧ State.reset.radio.mode = .off ∧
  State.reset.radio.fSent = false ∧ State.reset.radio.fFailed = false ∧ State.reset.radio.fReady = false ∧
  State.reset.radio.rxq = [] ∧ State.reset.radio.txp = false ∧ State.reset.dlog = [] ∧ State.reset.rlog = []

/-- 70_reset_and_hazards.md R220, R222 with 10_state.md R45: a reset of the block alone gives the registers their reset
values, clears the `refused` mark and discards a pending command, and leaves RADIO, the logs and the parameters. The mark
of the whole run stays (R39; the model's form, log 5); FB[0] = 0x40 is log 18's. -/
def Obligations.BlockResetLeavesTheDevices : Prop :=
  ∀ (s : State) (rest : List Turn), s.inputs = .blockReset :: rest →
    ∃ t, step s = .next t ∧ t.arg0 = 0#16 ∧ t.arg1 = 0#16 ∧ t.arg2 = 0#16 ∧ t.arg3 = 0#16 ∧ t.cmd = 0#32 ∧
      statusWord t.status = 0#32 ∧ errWord t.err = 0#32 ∧ t.latch = none ∧ byteAt t.fb 0 = 0x40#8 ∧
      t.irqPrev = irqLevel s.radio ∧ t.radio = s.radio ∧ t.dlog = s.dlog ∧ t.rlog = s.rlog ∧ t.params = s.params ∧
      t.refused = false ∧ t.refusedInRun = s.refusedInRun ∧ t.inputs = rest

/-! ### Rules of the whole machine -/

/-- Every step keeps the invariant, from every state that has it (10_state.md R23, R25, R27, R35, R37, R40;
30_encoding.md R90). Its last clause, on the two marks, is of the model's form (log 5). -/
def Obligations.StepKeepsInvariant : Prop :=
  ∀ s t : State, Inv s → step s = .next t → Inv t

/-- The machine right after power-on and reset has the invariant. -/
def Obligations.ResetHasInvariant : Prop := Inv State.reset

/-- 42_radio_framer.md R150, 10_state.md R25 and 30_encoding.md R90 (the spec's own inference) as progress: from every
state with the invariant a step answers a next state. The stops ruled out are the model's own: a radio operation whose
precondition fails (log 10), an empty latch (log 11), a latched word that is no command (log 12). -/
def Obligations.NoStepStops : Prop :=
  ∀ s : State, Inv s → ∃ t, step s = .next t

/-- 10_state.md R27: FB[0] is DATA_PREFIX at reset, every step of every agent keeps it so, and no command writes FB[0],
in any state. The value 0x40 is the spec's default from general knowledge (log 18). -/
def Obligations.PrefixByteIsFixed : Prop :=
  byteAt State.reset.fb 0 = 0x40#8 ∧
  (∀ s t : State, byteAt s.fb 0 = 0x40#8 → step s = .next t → byteAt t.fb 0 = 0x40#8) ∧
  (∀ (s t : State) (i : Instr), exec i s = .next t → byteAt t.fb 0 = byteAt s.fb 0)

/-- No command writes the ARG registers, CMD, TEXT, TXBUF, the marks (log 5), the parameters or FONT (10_state.md R21,
R22, R31, R32, R33; 00_scope.md R7), in every state and however it ends. -/
def Obligations.EveryCommandKeepsItsFrame : Prop :=
  ∀ (s t : State) (i : Instr), exec i s = .next t → CommandFrame s t

/-- 10_state.md R38: which command writes which STATUS bit: every bit outside a command's row is kept. The spec's own inference (R38). -/
def Obligations.StatusBitsByCommand : Prop :=
  ∀ (s t : State) (i : Instr), exec i s = .next t →
    t.status.busy = false ∧ t.latch = none ∧
    (i ≠ .pget → t.status.pixel = s.status.pixel) ∧
    (i ≠ .dinit → t.status.dispInit = s.status.dispInit) ∧
    (i ≠ .rinit → t.status.radioInit = s.status.radioInit ∧ t.status.radioFail = s.status.radioFail) ∧
    (i ∉ [.rinit, .listen, .unlisten, .xmit, .event] → t.status.listening = s.status.listening) ∧
    (i ∉ [.poll, .event] → t.status.evSent = s.status.evSent ∧ t.status.evFailed = s.status.evFailed ∧
      t.status.evReady = s.status.evReady) ∧
    (i ∉ [.xmit, .event] → t.status.txOk = s.status.txOk) ∧
    (i ≠ .event → t.status.ping = s.status.ping) ∧
    ((∀ level, i ≠ .armwake level) → t.status.wakeLevel = s.status.wakeLevel)

/-- 10_state.md R26, R29, R44; 40_renderer.md and 41_display_transport.md: only the renderer's drawing commands write FB,
only RECV and EVENT write MSG, only DINIT and PUSH emit transactions, and the radio operation log grows only by radio
commands; in every state and however the command ends. -/
def Obligations.BuffersAndLogsByCommand : Prop :=
  ∀ (s t : State) (i : Instr), exec i s = .next t →
    ((i ≠ .clear ∧ (∀ b, i ≠ .pset b) ∧ (∀ b, i ≠ .line b) ∧ i ≠ .glyph ∧ (∀ src, i ≠ .text src)) → t.fb = s.fb) ∧
    (i ∉ [.recv, .event] → t.msg = s.msg) ∧ (i ∉ [.dinit, .push] → t.dlog = s.dlog) ∧
    (i ∉ [.rinit, .listen, .unlisten, .poll, .recv, .xmit, .event] → t.rlog = s.rlog ∧ t.radio = s.radio)

/-- 10_state.md R34: nothing but a reset clears RADIO_FAIL, and only an engine's step performing RINIT sets it; in every
state. -/
def Obligations.RadioFailIsSticky : Prop :=
  ∀ s t : State, step s = .next t →
    (s.status.radioFail = true → (∀ rest, s.inputs ≠ .blockReset :: rest) → t.status.radioFail = true) ∧
    (s.status.radioFail = false → t.status.radioFail = true →
      ∃ rest l, s.inputs = .engine :: rest ∧ s.latch = some l ∧ l.word = encode .rinit ∧ s.radio.present = false)

/-- 20_memory.md R73: the logs only grow: no step of any agent takes back or rewrites an entry. -/
def Obligations.LogsOnlyGrow : Prop :=
  ∀ s t : State, step s = .next t → s.dlog <+: t.dlog ∧ s.rlog <+: t.rlog

/-- 00_scope.md R7, 10_state.md R33, R43: no step changes a parameter or FONT or the transceiver's presence. The
`refused` mark, once set, is cleared by nothing but a block reset (R45), and the mark of the whole run by nothing (R39;
two marks are the model's form, log 5). -/
def Obligations.FixedForTheLifeOfTheBlock : Prop :=
  ∀ s t : State, step s = .next t →
    t.params = s.params ∧ t.radio.present = s.radio.present ∧
    (s.refused = true → (∀ rest, s.inputs ≠ .blockReset :: rest) → t.refused = true) ∧
    (s.refusedInRun = true → t.refusedInRun = true)
end

