-- ==== Sys2Proof/Laws/State.lean ====
section
/-! SUPPORT. One lemma for each field of each named update of State: what the update leaves in it. Each is true by
rfl and a simp lemma, so that no proof unfolds a record update. -/

namespace Sys2Proof.Machine

/-! `detect` -/

@[simp] theorem detect_arg0 (s : State) : (detect s).arg0 = s.arg0 := rfl
@[simp] theorem detect_arg1 (s : State) : (detect s).arg1 = s.arg1 := rfl
@[simp] theorem detect_arg2 (s : State) : (detect s).arg2 = s.arg2 := rfl
@[simp] theorem detect_arg3 (s : State) : (detect s).arg3 = s.arg3 := rfl
@[simp] theorem detect_cmd (s : State) : (detect s).cmd = s.cmd := rfl
@[simp] theorem detect_err (s : State) : (detect s).err = s.err := rfl
@[simp] theorem detect_latch (s : State) : (detect s).latch = s.latch := rfl
@[simp] theorem detect_fb (s : State) : (detect s).fb = s.fb := rfl
@[simp] theorem detect_msg (s : State) : (detect s).msg = s.msg := rfl
@[simp] theorem detect_text (s : State) : (detect s).text = s.text := rfl
@[simp] theorem detect_txbuf (s : State) : (detect s).txbuf = s.txbuf := rfl
@[simp] theorem detect_refused (s : State) : (detect s).refused = s.refused := rfl
@[simp] theorem detect_refusedInRun (s : State) : (detect s).refusedInRun = s.refusedInRun := rfl
@[simp] theorem detect_radio (s : State) : (detect s).radio = s.radio := rfl
@[simp] theorem detect_dlog (s : State) : (detect s).dlog = s.dlog := rfl
@[simp] theorem detect_rlog (s : State) : (detect s).rlog = s.rlog := rfl
@[simp] theorem detect_params (s : State) : (detect s).params = s.params := rfl
@[simp] theorem detect_inputs (s : State) : (detect s).inputs = s.inputs := rfl
@[simp] theorem detect_hostData (s : State) : (detect s).hostData = s.hostData := rfl
@[simp] theorem detect_draws (s : State) : (detect s).draws = s.draws := rfl
@[simp] theorem detect_busy (s : State) : (detect s).status.busy = s.status.busy := rfl
@[simp] theorem detect_done (s : State) : (detect s).status.done = s.status.done := rfl
@[simp] theorem detect_dispInit (s : State) : (detect s).status.dispInit = s.status.dispInit := rfl
@[simp] theorem detect_radioInit (s : State) : (detect s).status.radioInit = s.status.radioInit := rfl
@[simp] theorem detect_radioFail (s : State) : (detect s).status.radioFail = s.status.radioFail := rfl
@[simp] theorem detect_listening (s : State) : (detect s).status.listening = s.status.listening := rfl
@[simp] theorem detect_evSent (s : State) : (detect s).status.evSent = s.status.evSent := rfl
@[simp] theorem detect_evFailed (s : State) : (detect s).status.evFailed = s.status.evFailed := rfl
@[simp] theorem detect_evReady (s : State) : (detect s).status.evReady = s.status.evReady := rfl
@[simp] theorem detect_txOk (s : State) : (detect s).status.txOk = s.status.txOk := rfl
@[simp] theorem detect_pixel (s : State) : (detect s).status.pixel = s.status.pixel := rfl
@[simp] theorem detect_ping (s : State) : (detect s).status.ping = s.status.ping := rfl
@[simp] theorem detect_wakeLevel (s : State) : (detect s).status.wakeLevel = s.status.wakeLevel := rfl
@[simp] theorem detect_irqPrev (s : State) :
    (detect s).irqPrev = irqLevel s.radio := rfl
@[simp] theorem detect_wakePending (s : State) :
    (detect s).status.wakePending = (s.status.wakePending || detectorFires s) := rfl
@[simp] theorem detect_wakeArmed (s : State) :
    (detect s).status.wakeArmed = (s.status.wakeArmed && !detectorFires s) := rfl

/-! `completed` -/

@[simp] theorem completed_arg0 (s : State) : (completed s).arg0 = s.arg0 := rfl
@[simp] theorem completed_arg1 (s : State) : (completed s).arg1 = s.arg1 := rfl
@[simp] theorem completed_arg2 (s : State) : (completed s).arg2 = s.arg2 := rfl
@[simp] theorem completed_arg3 (s : State) : (completed s).arg3 = s.arg3 := rfl
@[simp] theorem completed_cmd (s : State) : (completed s).cmd = s.cmd := rfl
@[simp] theorem completed_err (s : State) : (completed s).err = s.err := rfl
@[simp] theorem completed_fb (s : State) : (completed s).fb = s.fb := rfl
@[simp] theorem completed_msg (s : State) : (completed s).msg = s.msg := rfl
@[simp] theorem completed_text (s : State) : (completed s).text = s.text := rfl
@[simp] theorem completed_txbuf (s : State) : (completed s).txbuf = s.txbuf := rfl
@[simp] theorem completed_refused (s : State) : (completed s).refused = s.refused := rfl
@[simp] theorem completed_refusedInRun (s : State) : (completed s).refusedInRun = s.refusedInRun := rfl
@[simp] theorem completed_radio (s : State) : (completed s).radio = s.radio := rfl
@[simp] theorem completed_dlog (s : State) : (completed s).dlog = s.dlog := rfl
@[simp] theorem completed_rlog (s : State) : (completed s).rlog = s.rlog := rfl
@[simp] theorem completed_params (s : State) : (completed s).params = s.params := rfl
@[simp] theorem completed_inputs (s : State) : (completed s).inputs = s.inputs := rfl
@[simp] theorem completed_hostData (s : State) : (completed s).hostData = s.hostData := rfl
@[simp] theorem completed_draws (s : State) : (completed s).draws = s.draws := rfl
@[simp] theorem completed_dispInit (s : State) : (completed s).status.dispInit = s.status.dispInit := rfl
@[simp] theorem completed_radioInit (s : State) : (completed s).status.radioInit = s.status.radioInit := rfl
@[simp] theorem completed_radioFail (s : State) : (completed s).status.radioFail = s.status.radioFail := rfl
@[simp] theorem completed_listening (s : State) : (completed s).status.listening = s.status.listening := rfl
@[simp] theorem completed_evSent (s : State) : (completed s).status.evSent = s.status.evSent := rfl
@[simp] theorem completed_evFailed (s : State) : (completed s).status.evFailed = s.status.evFailed := rfl
@[simp] theorem completed_evReady (s : State) : (completed s).status.evReady = s.status.evReady := rfl
@[simp] theorem completed_txOk (s : State) : (completed s).status.txOk = s.status.txOk := rfl
@[simp] theorem completed_pixel (s : State) : (completed s).status.pixel = s.status.pixel := rfl
@[simp] theorem completed_ping (s : State) : (completed s).status.ping = s.status.ping := rfl
@[simp] theorem completed_wakeLevel (s : State) : (completed s).status.wakeLevel = s.status.wakeLevel := rfl
@[simp] theorem completed_latch (s : State) :
    (completed s).latch = none := rfl
@[simp] theorem completed_irqPrev (s : State) :
    (completed s).irqPrev = irqLevel s.radio := rfl
@[simp] theorem completed_busy (s : State) :
    (completed s).status.busy = false := rfl
@[simp] theorem completed_done (s : State) :
    (completed s).status.done = true := rfl
@[simp] theorem completed_wakePending (s : State) :
    (completed s).status.wakePending = (s.status.wakePending || detectorFires s) := rfl
@[simp] theorem completed_wakeArmed (s : State) :
    (completed s).status.wakeArmed = (s.status.wakeArmed && !detectorFires s) := rfl

/-! `failed` -/

@[simp] theorem failed_arg0 (c : ErrorCode) (s : State) : (failed c s).arg0 = s.arg0 := rfl
@[simp] theorem failed_arg1 (c : ErrorCode) (s : State) : (failed c s).arg1 = s.arg1 := rfl
@[simp] theorem failed_arg2 (c : ErrorCode) (s : State) : (failed c s).arg2 = s.arg2 := rfl
@[simp] theorem failed_arg3 (c : ErrorCode) (s : State) : (failed c s).arg3 = s.arg3 := rfl
@[simp] theorem failed_cmd (c : ErrorCode) (s : State) : (failed c s).cmd = s.cmd := rfl
@[simp] theorem failed_fb (c : ErrorCode) (s : State) : (failed c s).fb = s.fb := rfl
@[simp] theorem failed_msg (c : ErrorCode) (s : State) : (failed c s).msg = s.msg := rfl
@[simp] theorem failed_text (c : ErrorCode) (s : State) : (failed c s).text = s.text := rfl
@[simp] theorem failed_txbuf (c : ErrorCode) (s : State) : (failed c s).txbuf = s.txbuf := rfl
@[simp] theorem failed_refused (c : ErrorCode) (s : State) : (failed c s).refused = s.refused := rfl
@[simp] theorem failed_refusedInRun (c : ErrorCode) (s : State) : (failed c s).refusedInRun = s.refusedInRun := rfl
@[simp] theorem failed_radio (c : ErrorCode) (s : State) : (failed c s).radio = s.radio := rfl
@[simp] theorem failed_dlog (c : ErrorCode) (s : State) : (failed c s).dlog = s.dlog := rfl
@[simp] theorem failed_rlog (c : ErrorCode) (s : State) : (failed c s).rlog = s.rlog := rfl
@[simp] theorem failed_params (c : ErrorCode) (s : State) : (failed c s).params = s.params := rfl
@[simp] theorem failed_inputs (c : ErrorCode) (s : State) : (failed c s).inputs = s.inputs := rfl
@[simp] theorem failed_hostData (c : ErrorCode) (s : State) : (failed c s).hostData = s.hostData := rfl
@[simp] theorem failed_draws (c : ErrorCode) (s : State) : (failed c s).draws = s.draws := rfl
@[simp] theorem failed_done (c : ErrorCode) (s : State) : (failed c s).status.done = s.status.done := rfl
@[simp] theorem failed_dispInit (c : ErrorCode) (s : State) : (failed c s).status.dispInit = s.status.dispInit := rfl
@[simp] theorem failed_radioInit (c : ErrorCode) (s : State) : (failed c s).status.radioInit = s.status.radioInit := rfl
@[simp] theorem failed_radioFail (c : ErrorCode) (s : State) : (failed c s).status.radioFail = s.status.radioFail := rfl
@[simp] theorem failed_listening (c : ErrorCode) (s : State) : (failed c s).status.listening = s.status.listening := rfl
@[simp] theorem failed_evSent (c : ErrorCode) (s : State) : (failed c s).status.evSent = s.status.evSent := rfl
@[simp] theorem failed_evFailed (c : ErrorCode) (s : State) : (failed c s).status.evFailed = s.status.evFailed := rfl
@[simp] theorem failed_evReady (c : ErrorCode) (s : State) : (failed c s).status.evReady = s.status.evReady := rfl
@[simp] theorem failed_txOk (c : ErrorCode) (s : State) : (failed c s).status.txOk = s.status.txOk := rfl
@[simp] theorem failed_pixel (c : ErrorCode) (s : State) : (failed c s).status.pixel = s.status.pixel := rfl
@[simp] theorem failed_ping (c : ErrorCode) (s : State) : (failed c s).status.ping = s.status.ping := rfl
@[simp] theorem failed_wakeLevel (c : ErrorCode) (s : State) : (failed c s).status.wakeLevel = s.status.wakeLevel := rfl
@[simp] theorem failed_latch (c : ErrorCode) (s : State) :
    (failed c s).latch = none := rfl
@[simp] theorem failed_err (c : ErrorCode) (s : State) :
    (failed c s).err = Err.record c s.err := rfl
@[simp] theorem failed_irqPrev (c : ErrorCode) (s : State) :
    (failed c s).irqPrev = irqLevel s.radio := rfl
@[simp] theorem failed_busy (c : ErrorCode) (s : State) :
    (failed c s).status.busy = false := rfl
@[simp] theorem failed_wakePending (c : ErrorCode) (s : State) :
    (failed c s).status.wakePending = (s.status.wakePending || detectorFires s) := rfl
@[simp] theorem failed_wakeArmed (c : ErrorCode) (s : State) :
    (failed c s).status.wakeArmed = (s.status.wakeArmed && !detectorFires s) := rfl

/-! `raiseErr` -/

@[simp] theorem raiseErr_arg0 (c : ErrorCode) (s : State) : (raiseErr c s).arg0 = s.arg0 := rfl
@[simp] theorem raiseErr_arg1 (c : ErrorCode) (s : State) : (raiseErr c s).arg1 = s.arg1 := rfl
@[simp] theorem raiseErr_arg2 (c : ErrorCode) (s : State) : (raiseErr c s).arg2 = s.arg2 := rfl
@[simp] theorem raiseErr_arg3 (c : ErrorCode) (s : State) : (raiseErr c s).arg3 = s.arg3 := rfl
@[simp] theorem raiseErr_cmd (c : ErrorCode) (s : State) : (raiseErr c s).cmd = s.cmd := rfl
@[simp] theorem raiseErr_status (c : ErrorCode) (s : State) : (raiseErr c s).status = s.status := rfl
@[simp] theorem raiseErr_latch (c : ErrorCode) (s : State) : (raiseErr c s).latch = s.latch := rfl
@[simp] theorem raiseErr_fb (c : ErrorCode) (s : State) : (raiseErr c s).fb = s.fb := rfl
@[simp] theorem raiseErr_msg (c : ErrorCode) (s : State) : (raiseErr c s).msg = s.msg := rfl
@[simp] theorem raiseErr_text (c : ErrorCode) (s : State) : (raiseErr c s).text = s.text := rfl
@[simp] theorem raiseErr_txbuf (c : ErrorCode) (s : State) : (raiseErr c s).txbuf = s.txbuf := rfl
@[simp] theorem raiseErr_irqPrev (c : ErrorCode) (s : State) : (raiseErr c s).irqPrev = s.irqPrev := rfl
@[simp] theorem raiseErr_refused (c : ErrorCode) (s : State) : (raiseErr c s).refused = s.refused := rfl
@[simp] theorem raiseErr_refusedInRun (c : ErrorCode) (s : State) : (raiseErr c s).refusedInRun = s.refusedInRun := rfl
@[simp] theorem raiseErr_radio (c : ErrorCode) (s : State) : (raiseErr c s).radio = s.radio := rfl
@[simp] theorem raiseErr_dlog (c : ErrorCode) (s : State) : (raiseErr c s).dlog = s.dlog := rfl
@[simp] theorem raiseErr_rlog (c : ErrorCode) (s : State) : (raiseErr c s).rlog = s.rlog := rfl
@[simp] theorem raiseErr_params (c : ErrorCode) (s : State) : (raiseErr c s).params = s.params := rfl
@[simp] theorem raiseErr_inputs (c : ErrorCode) (s : State) : (raiseErr c s).inputs = s.inputs := rfl
@[simp] theorem raiseErr_hostData (c : ErrorCode) (s : State) : (raiseErr c s).hostData = s.hostData := rfl
@[simp] theorem raiseErr_draws (c : ErrorCode) (s : State) : (raiseErr c s).draws = s.draws := rfl
@[simp] theorem raiseErr_err (c : ErrorCode) (s : State) :
    (raiseErr c s).err = Err.record c s.err := rfl

/-! `clearErr` -/

@[simp] theorem clearErr_arg0 (s : State) : (clearErr s).arg0 = s.arg0 := rfl
@[simp] theorem clearErr_arg1 (s : State) : (clearErr s).arg1 = s.arg1 := rfl
@[simp] theorem clearErr_arg2 (s : State) : (clearErr s).arg2 = s.arg2 := rfl
@[simp] theorem clearErr_arg3 (s : State) : (clearErr s).arg3 = s.arg3 := rfl
@[simp] theorem clearErr_cmd (s : State) : (clearErr s).cmd = s.cmd := rfl
@[simp] theorem clearErr_status (s : State) : (clearErr s).status = s.status := rfl
@[simp] theorem clearErr_latch (s : State) : (clearErr s).latch = s.latch := rfl
@[simp] theorem clearErr_fb (s : State) : (clearErr s).fb = s.fb := rfl
@[simp] theorem clearErr_msg (s : State) : (clearErr s).msg = s.msg := rfl
@[simp] theorem clearErr_text (s : State) : (clearErr s).text = s.text := rfl
@[simp] theorem clearErr_txbuf (s : State) : (clearErr s).txbuf = s.txbuf := rfl
@[simp] theorem clearErr_irqPrev (s : State) : (clearErr s).irqPrev = s.irqPrev := rfl
@[simp] theorem clearErr_refused (s : State) : (clearErr s).refused = s.refused := rfl
@[simp] theorem clearErr_refusedInRun (s : State) : (clearErr s).refusedInRun = s.refusedInRun := rfl
@[simp] theorem clearErr_radio (s : State) : (clearErr s).radio = s.radio := rfl
@[simp] theorem clearErr_dlog (s : State) : (clearErr s).dlog = s.dlog := rfl
@[simp] theorem clearErr_rlog (s : State) : (clearErr s).rlog = s.rlog := rfl
@[simp] theorem clearErr_params (s : State) : (clearErr s).params = s.params := rfl
@[simp] theorem clearErr_inputs (s : State) : (clearErr s).inputs = s.inputs := rfl
@[simp] theorem clearErr_hostData (s : State) : (clearErr s).hostData = s.hostData := rfl
@[simp] theorem clearErr_draws (s : State) : (clearErr s).draws = s.draws := rfl
@[simp] theorem clearErr_err (s : State) :
    (clearErr s).err = Err.clear := rfl

/-! `busWrite` -/

@[simp] theorem busWrite_arg0 (b : List Byte) (s : State) : (busWrite b s).arg0 = s.arg0 := rfl
@[simp] theorem busWrite_arg1 (b : List Byte) (s : State) : (busWrite b s).arg1 = s.arg1 := rfl
@[simp] theorem busWrite_arg2 (b : List Byte) (s : State) : (busWrite b s).arg2 = s.arg2 := rfl
@[simp] theorem busWrite_arg3 (b : List Byte) (s : State) : (busWrite b s).arg3 = s.arg3 := rfl
@[simp] theorem busWrite_cmd (b : List Byte) (s : State) : (busWrite b s).cmd = s.cmd := rfl
@[simp] theorem busWrite_status (b : List Byte) (s : State) : (busWrite b s).status = s.status := rfl
@[simp] theorem busWrite_err (b : List Byte) (s : State) : (busWrite b s).err = s.err := rfl
@[simp] theorem busWrite_latch (b : List Byte) (s : State) : (busWrite b s).latch = s.latch := rfl
@[simp] theorem busWrite_fb (b : List Byte) (s : State) : (busWrite b s).fb = s.fb := rfl
@[simp] theorem busWrite_msg (b : List Byte) (s : State) : (busWrite b s).msg = s.msg := rfl
@[simp] theorem busWrite_text (b : List Byte) (s : State) : (busWrite b s).text = s.text := rfl
@[simp] theorem busWrite_txbuf (b : List Byte) (s : State) : (busWrite b s).txbuf = s.txbuf := rfl
@[simp] theorem busWrite_irqPrev (b : List Byte) (s : State) : (busWrite b s).irqPrev = s.irqPrev := rfl
@[simp] theorem busWrite_refused (b : List Byte) (s : State) : (busWrite b s).refused = s.refused := rfl
@[simp] theorem busWrite_refusedInRun (b : List Byte) (s : State) : (busWrite b s).refusedInRun = s.refusedInRun := rfl
@[simp] theorem busWrite_radio (b : List Byte) (s : State) : (busWrite b s).radio = s.radio := rfl
@[simp] theorem busWrite_rlog (b : List Byte) (s : State) : (busWrite b s).rlog = s.rlog := rfl
@[simp] theorem busWrite_params (b : List Byte) (s : State) : (busWrite b s).params = s.params := rfl
@[simp] theorem busWrite_inputs (b : List Byte) (s : State) : (busWrite b s).inputs = s.inputs := rfl
@[simp] theorem busWrite_hostData (b : List Byte) (s : State) : (busWrite b s).hostData = s.hostData := rfl
@[simp] theorem busWrite_draws (b : List Byte) (s : State) : (busWrite b s).draws = s.draws := rfl
@[simp] theorem busWrite_dlog (b : List Byte) (s : State) :
    (busWrite b s).dlog = s.dlog ++ [{ addr := Config.dispAddr, bytes := b }] := rfl

/-! `afterCfg` -/

@[simp] theorem afterCfg_arg0 (s : State) : (afterCfg s).arg0 = s.arg0 := rfl
@[simp] theorem afterCfg_arg1 (s : State) : (afterCfg s).arg1 = s.arg1 := rfl
@[simp] theorem afterCfg_arg2 (s : State) : (afterCfg s).arg2 = s.arg2 := rfl
@[simp] theorem afterCfg_arg3 (s : State) : (afterCfg s).arg3 = s.arg3 := rfl
@[simp] theorem afterCfg_cmd (s : State) : (afterCfg s).cmd = s.cmd := rfl
@[simp] theorem afterCfg_err (s : State) : (afterCfg s).err = s.err := rfl
@[simp] theorem afterCfg_latch (s : State) : (afterCfg s).latch = s.latch := rfl
@[simp] theorem afterCfg_fb (s : State) : (afterCfg s).fb = s.fb := rfl
@[simp] theorem afterCfg_msg (s : State) : (afterCfg s).msg = s.msg := rfl
@[simp] theorem afterCfg_text (s : State) : (afterCfg s).text = s.text := rfl
@[simp] theorem afterCfg_txbuf (s : State) : (afterCfg s).txbuf = s.txbuf := rfl
@[simp] theorem afterCfg_refused (s : State) : (afterCfg s).refused = s.refused := rfl
@[simp] theorem afterCfg_refusedInRun (s : State) : (afterCfg s).refusedInRun = s.refusedInRun := rfl
@[simp] theorem afterCfg_dlog (s : State) : (afterCfg s).dlog = s.dlog := rfl
@[simp] theorem afterCfg_params (s : State) : (afterCfg s).params = s.params := rfl
@[simp] theorem afterCfg_inputs (s : State) : (afterCfg s).inputs = s.inputs := rfl
@[simp] theorem afterCfg_hostData (s : State) : (afterCfg s).hostData = s.hostData := rfl
@[simp] theorem afterCfg_draws (s : State) : (afterCfg s).draws = s.draws := rfl
@[simp] theorem afterCfg_busy (s : State) : (afterCfg s).status.busy = s.status.busy := rfl
@[simp] theorem afterCfg_done (s : State) : (afterCfg s).status.done = s.status.done := rfl
@[simp] theorem afterCfg_dispInit (s : State) : (afterCfg s).status.dispInit = s.status.dispInit := rfl
@[simp] theorem afterCfg_radioInit (s : State) : (afterCfg s).status.radioInit = s.status.radioInit := rfl
@[simp] theorem afterCfg_radioFail (s : State) : (afterCfg s).status.radioFail = s.status.radioFail := rfl
@[simp] theorem afterCfg_listening (s : State) : (afterCfg s).status.listening = s.status.listening := rfl
@[simp] theorem afterCfg_evSent (s : State) : (afterCfg s).status.evSent = s.status.evSent := rfl
@[simp] theorem afterCfg_evFailed (s : State) : (afterCfg s).status.evFailed = s.status.evFailed := rfl
@[simp] theorem afterCfg_evReady (s : State) : (afterCfg s).status.evReady = s.status.evReady := rfl
@[simp] theorem afterCfg_txOk (s : State) : (afterCfg s).status.txOk = s.status.txOk := rfl
@[simp] theorem afterCfg_pixel (s : State) : (afterCfg s).status.pixel = s.status.pixel := rfl
@[simp] theorem afterCfg_ping (s : State) : (afterCfg s).status.ping = s.status.ping := rfl
@[simp] theorem afterCfg_wakeLevel (s : State) : (afterCfg s).status.wakeLevel = s.status.wakeLevel := rfl
@[simp] theorem afterCfg_radio (s : State) :
    (afterCfg s).radio = s.radio.configured := rfl
@[simp] theorem afterCfg_rlog (s : State) :
    (afterCfg s).rlog = s.rlog ++ [.rcfg s.radio.present] := rfl
@[simp] theorem afterCfg_irqPrev (s : State) :
    (afterCfg s).irqPrev = irqLevel s.radio.configured := rfl

/-! `afterMode` -/

@[simp] theorem afterMode_arg0 (m : LinkMode) (s : State) : (afterMode m s).arg0 = s.arg0 := rfl
@[simp] theorem afterMode_arg1 (m : LinkMode) (s : State) : (afterMode m s).arg1 = s.arg1 := rfl
@[simp] theorem afterMode_arg2 (m : LinkMode) (s : State) : (afterMode m s).arg2 = s.arg2 := rfl
@[simp] theorem afterMode_arg3 (m : LinkMode) (s : State) : (afterMode m s).arg3 = s.arg3 := rfl
@[simp] theorem afterMode_cmd (m : LinkMode) (s : State) : (afterMode m s).cmd = s.cmd := rfl
@[simp] theorem afterMode_err (m : LinkMode) (s : State) : (afterMode m s).err = s.err := rfl
@[simp] theorem afterMode_latch (m : LinkMode) (s : State) : (afterMode m s).latch = s.latch := rfl
@[simp] theorem afterMode_fb (m : LinkMode) (s : State) : (afterMode m s).fb = s.fb := rfl
@[simp] theorem afterMode_msg (m : LinkMode) (s : State) : (afterMode m s).msg = s.msg := rfl
@[simp] theorem afterMode_text (m : LinkMode) (s : State) : (afterMode m s).text = s.text := rfl
@[simp] theorem afterMode_txbuf (m : LinkMode) (s : State) : (afterMode m s).txbuf = s.txbuf := rfl
@[simp] theorem afterMode_refused (m : LinkMode) (s : State) : (afterMode m s).refused = s.refused := rfl
@[simp] theorem afterMode_refusedInRun (m : LinkMode) (s : State) : (afterMode m s).refusedInRun = s.refusedInRun := rfl
@[simp] theorem afterMode_dlog (m : LinkMode) (s : State) : (afterMode m s).dlog = s.dlog := rfl
@[simp] theorem afterMode_params (m : LinkMode) (s : State) : (afterMode m s).params = s.params := rfl
@[simp] theorem afterMode_inputs (m : LinkMode) (s : State) : (afterMode m s).inputs = s.inputs := rfl
@[simp] theorem afterMode_hostData (m : LinkMode) (s : State) : (afterMode m s).hostData = s.hostData := rfl
@[simp] theorem afterMode_draws (m : LinkMode) (s : State) : (afterMode m s).draws = s.draws := rfl
@[simp] theorem afterMode_busy (m : LinkMode) (s : State) : (afterMode m s).status.busy = s.status.busy := rfl
@[simp] theorem afterMode_done (m : LinkMode) (s : State) : (afterMode m s).status.done = s.status.done := rfl
@[simp] theorem afterMode_dispInit (m : LinkMode) (s : State) : (afterMode m s).status.dispInit = s.status.dispInit := rfl
@[simp] theorem afterMode_radioInit (m : LinkMode) (s : State) : (afterMode m s).status.radioInit = s.status.radioInit := rfl
@[simp] theorem afterMode_radioFail (m : LinkMode) (s : State) : (afterMode m s).status.radioFail = s.status.radioFail := rfl
@[simp] theorem afterMode_listening (m : LinkMode) (s : State) : (afterMode m s).status.listening = s.status.listening := rfl
@[simp] theorem afterMode_evSent (m : LinkMode) (s : State) : (afterMode m s).status.evSent = s.status.evSent := rfl
@[simp] theorem afterMode_evFailed (m : LinkMode) (s : State) : (afterMode m s).status.evFailed = s.status.evFailed := rfl
@[simp] theorem afterMode_evReady (m : LinkMode) (s : State) : (afterMode m s).status.evReady = s.status.evReady := rfl
@[simp] theorem afterMode_txOk (m : LinkMode) (s : State) : (afterMode m s).status.txOk = s.status.txOk := rfl
@[simp] theorem afterMode_pixel (m : LinkMode) (s : State) : (afterMode m s).status.pixel = s.status.pixel := rfl
@[simp] theorem afterMode_ping (m : LinkMode) (s : State) : (afterMode m s).status.ping = s.status.ping := rfl
@[simp] theorem afterMode_wakeLevel (m : LinkMode) (s : State) : (afterMode m s).status.wakeLevel = s.status.wakeLevel := rfl
@[simp] theorem afterMode_radio (m : LinkMode) (s : State) :
    (afterMode m s).radio = { s.radio with mode := m.mode } := rfl
@[simp] theorem afterMode_rlog (m : LinkMode) (s : State) :
    (afterMode m s).rlog = s.rlog ++ [.rmode m] := rfl

/-! `afterFlags` -/

@[simp] theorem afterFlags_arg0 (s : State) : (afterFlags s).arg0 = s.arg0 := rfl
@[simp] theorem afterFlags_arg1 (s : State) : (afterFlags s).arg1 = s.arg1 := rfl
@[simp] theorem afterFlags_arg2 (s : State) : (afterFlags s).arg2 = s.arg2 := rfl
@[simp] theorem afterFlags_arg3 (s : State) : (afterFlags s).arg3 = s.arg3 := rfl
@[simp] theorem afterFlags_cmd (s : State) : (afterFlags s).cmd = s.cmd := rfl
@[simp] theorem afterFlags_err (s : State) : (afterFlags s).err = s.err := rfl
@[simp] theorem afterFlags_latch (s : State) : (afterFlags s).latch = s.latch := rfl
@[simp] theorem afterFlags_fb (s : State) : (afterFlags s).fb = s.fb := rfl
@[simp] theorem afterFlags_msg (s : State) : (afterFlags s).msg = s.msg := rfl
@[simp] theorem afterFlags_text (s : State) : (afterFlags s).text = s.text := rfl
@[simp] theorem afterFlags_txbuf (s : State) : (afterFlags s).txbuf = s.txbuf := rfl
@[simp] theorem afterFlags_refused (s : State) : (afterFlags s).refused = s.refused := rfl
@[simp] theorem afterFlags_refusedInRun (s : State) : (afterFlags s).refusedInRun = s.refusedInRun := rfl
@[simp] theorem afterFlags_dlog (s : State) : (afterFlags s).dlog = s.dlog := rfl
@[simp] theorem afterFlags_params (s : State) : (afterFlags s).params = s.params := rfl
@[simp] theorem afterFlags_inputs (s : State) : (afterFlags s).inputs = s.inputs := rfl
@[simp] theorem afterFlags_hostData (s : State) : (afterFlags s).hostData = s.hostData := rfl
@[simp] theorem afterFlags_draws (s : State) : (afterFlags s).draws = s.draws := rfl
@[simp] theorem afterFlags_busy (s : State) : (afterFlags s).status.busy = s.status.busy := rfl
@[simp] theorem afterFlags_done (s : State) : (afterFlags s).status.done = s.status.done := rfl
@[simp] theorem afterFlags_dispInit (s : State) : (afterFlags s).status.dispInit = s.status.dispInit := rfl
@[simp] theorem afterFlags_radioInit (s : State) : (afterFlags s).status.radioInit = s.status.radioInit := rfl
@[simp] theorem afterFlags_radioFail (s : State) : (afterFlags s).status.radioFail = s.status.radioFail := rfl
@[simp] theorem afterFlags_listening (s : State) : (afterFlags s).status.listening = s.status.listening := rfl
@[simp] theorem afterFlags_evSent (s : State) : (afterFlags s).status.evSent = s.status.evSent := rfl
@[simp] theorem afterFlags_evFailed (s : State) : (afterFlags s).status.evFailed = s.status.evFailed := rfl
@[simp] theorem afterFlags_evReady (s : State) : (afterFlags s).status.evReady = s.status.evReady := rfl
@[simp] theorem afterFlags_txOk (s : State) : (afterFlags s).status.txOk = s.status.txOk := rfl
@[simp] theorem afterFlags_pixel (s : State) : (afterFlags s).status.pixel = s.status.pixel := rfl
@[simp] theorem afterFlags_ping (s : State) : (afterFlags s).status.ping = s.status.ping := rfl
@[simp] theorem afterFlags_wakeLevel (s : State) : (afterFlags s).status.wakeLevel = s.status.wakeLevel := rfl
@[simp] theorem afterFlags_radio (s : State) :
    (afterFlags s).radio = { s.radio with fSent := false, fFailed := false, fReady := false } := rfl
@[simp] theorem afterFlags_rlog (s : State) :
    (afterFlags s).rlog = s.rlog ++ [.rflags s.radio.fSent s.radio.fFailed s.radio.fReady] := rfl

/-! `afterRead` -/

@[simp] theorem afterRead_arg0 (p : Payload) (s : State) : (afterRead p s).arg0 = s.arg0 := rfl
@[simp] theorem afterRead_arg1 (p : Payload) (s : State) : (afterRead p s).arg1 = s.arg1 := rfl
@[simp] theorem afterRead_arg2 (p : Payload) (s : State) : (afterRead p s).arg2 = s.arg2 := rfl
@[simp] theorem afterRead_arg3 (p : Payload) (s : State) : (afterRead p s).arg3 = s.arg3 := rfl
@[simp] theorem afterRead_cmd (p : Payload) (s : State) : (afterRead p s).cmd = s.cmd := rfl
@[simp] theorem afterRead_err (p : Payload) (s : State) : (afterRead p s).err = s.err := rfl
@[simp] theorem afterRead_latch (p : Payload) (s : State) : (afterRead p s).latch = s.latch := rfl
@[simp] theorem afterRead_fb (p : Payload) (s : State) : (afterRead p s).fb = s.fb := rfl
@[simp] theorem afterRead_msg (p : Payload) (s : State) : (afterRead p s).msg = s.msg := rfl
@[simp] theorem afterRead_text (p : Payload) (s : State) : (afterRead p s).text = s.text := rfl
@[simp] theorem afterRead_txbuf (p : Payload) (s : State) : (afterRead p s).txbuf = s.txbuf := rfl
@[simp] theorem afterRead_refused (p : Payload) (s : State) : (afterRead p s).refused = s.refused := rfl
@[simp] theorem afterRead_refusedInRun (p : Payload) (s : State) : (afterRead p s).refusedInRun = s.refusedInRun := rfl
@[simp] theorem afterRead_dlog (p : Payload) (s : State) : (afterRead p s).dlog = s.dlog := rfl
@[simp] theorem afterRead_params (p : Payload) (s : State) : (afterRead p s).params = s.params := rfl
@[simp] theorem afterRead_inputs (p : Payload) (s : State) : (afterRead p s).inputs = s.inputs := rfl
@[simp] theorem afterRead_hostData (p : Payload) (s : State) : (afterRead p s).hostData = s.hostData := rfl
@[simp] theorem afterRead_draws (p : Payload) (s : State) : (afterRead p s).draws = s.draws := rfl
@[simp] theorem afterRead_busy (p : Payload) (s : State) : (afterRead p s).status.busy = s.status.busy := rfl
@[simp] theorem afterRead_done (p : Payload) (s : State) : (afterRead p s).status.done = s.status.done := rfl
@[simp] theorem afterRead_dispInit (p : Payload) (s : State) : (afterRead p s).status.dispInit = s.status.dispInit := rfl
@[simp] theorem afterRead_radioInit (p : Payload) (s : State) : (afterRead p s).status.radioInit = s.status.radioInit := rfl
@[simp] theorem afterRead_radioFail (p : Payload) (s : State) : (afterRead p s).status.radioFail = s.status.radioFail := rfl
@[simp] theorem afterRead_listening (p : Payload) (s : State) : (afterRead p s).status.listening = s.status.listening := rfl
@[simp] theorem afterRead_evSent (p : Payload) (s : State) : (afterRead p s).status.evSent = s.status.evSent := rfl
@[simp] theorem afterRead_evFailed (p : Payload) (s : State) : (afterRead p s).status.evFailed = s.status.evFailed := rfl
@[simp] theorem afterRead_evReady (p : Payload) (s : State) : (afterRead p s).status.evReady = s.status.evReady := rfl
@[simp] theorem afterRead_txOk (p : Payload) (s : State) : (afterRead p s).status.txOk = s.status.txOk := rfl
@[simp] theorem afterRead_pixel (p : Payload) (s : State) : (afterRead p s).status.pixel = s.status.pixel := rfl
@[simp] theorem afterRead_ping (p : Payload) (s : State) : (afterRead p s).status.ping = s.status.ping := rfl
@[simp] theorem afterRead_wakeLevel (p : Payload) (s : State) : (afterRead p s).status.wakeLevel = s.status.wakeLevel := rfl
@[simp] theorem afterRead_radio (p : Payload) (s : State) :
    (afterRead p s).radio = { s.radio with rxq := s.radio.rxq.tail } := rfl
@[simp] theorem afterRead_rlog (p : Payload) (s : State) :
    (afterRead p s).rlog = s.rlog ++ [.rread p] := rfl

/-! `afterSend` -/

@[simp] theorem afterSend_arg0 (p : Payload) (d : SendDraws) (s : State) : (afterSend p d s).arg0 = s.arg0 := rfl
@[simp] theorem afterSend_arg1 (p : Payload) (d : SendDraws) (s : State) : (afterSend p d s).arg1 = s.arg1 := rfl
@[simp] theorem afterSend_arg2 (p : Payload) (d : SendDraws) (s : State) : (afterSend p d s).arg2 = s.arg2 := rfl
@[simp] theorem afterSend_arg3 (p : Payload) (d : SendDraws) (s : State) : (afterSend p d s).arg3 = s.arg3 := rfl
@[simp] theorem afterSend_cmd (p : Payload) (d : SendDraws) (s : State) : (afterSend p d s).cmd = s.cmd := rfl
@[simp] theorem afterSend_err (p : Payload) (d : SendDraws) (s : State) : (afterSend p d s).err = s.err := rfl
@[simp] theorem afterSend_latch (p : Payload) (d : SendDraws) (s : State) : (afterSend p d s).latch = s.latch := rfl
@[simp] theorem afterSend_fb (p : Payload) (d : SendDraws) (s : State) : (afterSend p d s).fb = s.fb := rfl
@[simp] theorem afterSend_msg (p : Payload) (d : SendDraws) (s : State) : (afterSend p d s).msg = s.msg := rfl
@[simp] theorem afterSend_text (p : Payload) (d : SendDraws) (s : State) : (afterSend p d s).text = s.text := rfl
@[simp] theorem afterSend_txbuf (p : Payload) (d : SendDraws) (s : State) : (afterSend p d s).txbuf = s.txbuf := rfl
@[simp] theorem afterSend_refused (p : Payload) (d : SendDraws) (s : State) : (afterSend p d s).refused = s.refused := rfl
@[simp] theorem afterSend_refusedInRun (p : Payload) (d : SendDraws) (s : State) : (afterSend p d s).refusedInRun = s.refusedInRun := rfl
@[simp] theorem afterSend_dlog (p : Payload) (d : SendDraws) (s : State) : (afterSend p d s).dlog = s.dlog := rfl
@[simp] theorem afterSend_params (p : Payload) (d : SendDraws) (s : State) : (afterSend p d s).params = s.params := rfl
@[simp] theorem afterSend_inputs (p : Payload) (d : SendDraws) (s : State) : (afterSend p d s).inputs = s.inputs := rfl
@[simp] theorem afterSend_hostData (p : Payload) (d : SendDraws) (s : State) : (afterSend p d s).hostData = s.hostData := rfl
@[simp] theorem afterSend_draws (p : Payload) (d : SendDraws) (s : State) : (afterSend p d s).draws = s.draws := rfl
@[simp] theorem afterSend_busy (p : Payload) (d : SendDraws) (s : State) : (afterSend p d s).status.busy = s.status.busy := rfl
@[simp] theorem afterSend_done (p : Payload) (d : SendDraws) (s : State) : (afterSend p d s).status.done = s.status.done := rfl
@[simp] theorem afterSend_dispInit (p : Payload) (d : SendDraws) (s : State) : (afterSend p d s).status.dispInit = s.status.dispInit := rfl
@[simp] theorem afterSend_radioInit (p : Payload) (d : SendDraws) (s : State) : (afterSend p d s).status.radioInit = s.status.radioInit := rfl
@[simp] theorem afterSend_radioFail (p : Payload) (d : SendDraws) (s : State) : (afterSend p d s).status.radioFail = s.status.radioFail := rfl
@[simp] theorem afterSend_listening (p : Payload) (d : SendDraws) (s : State) : (afterSend p d s).status.listening = s.status.listening := rfl
@[simp] theorem afterSend_evSent (p : Payload) (d : SendDraws) (s : State) : (afterSend p d s).status.evSent = s.status.evSent := rfl
@[simp] theorem afterSend_evFailed (p : Payload) (d : SendDraws) (s : State) : (afterSend p d s).status.evFailed = s.status.evFailed := rfl
@[simp] theorem afterSend_evReady (p : Payload) (d : SendDraws) (s : State) : (afterSend p d s).status.evReady = s.status.evReady := rfl
@[simp] theorem afterSend_txOk (p : Payload) (d : SendDraws) (s : State) : (afterSend p d s).status.txOk = s.status.txOk := rfl
@[simp] theorem afterSend_pixel (p : Payload) (d : SendDraws) (s : State) : (afterSend p d s).status.pixel = s.status.pixel := rfl
@[simp] theorem afterSend_ping (p : Payload) (d : SendDraws) (s : State) : (afterSend p d s).status.ping = s.status.ping := rfl
@[simp] theorem afterSend_wakeLevel (p : Payload) (d : SendDraws) (s : State) : (afterSend p d s).status.wakeLevel = s.status.wakeLevel := rfl
@[simp] theorem afterSend_radio (p : Payload) (d : SendDraws) (s : State) :
    (afterSend p d s).radio = s.radio.sent d := rfl
@[simp] theorem afterSend_rlog (p : Payload) (d : SendDraws) (s : State) :
    (afterSend p d s).rlog = s.rlog ++ [.rsend p d.outcome] := rfl

/-! `drawn` -/

@[simp] theorem drawn_arg0 (s : State) : (drawn s).arg0 = s.arg0 := rfl
@[simp] theorem drawn_arg1 (s : State) : (drawn s).arg1 = s.arg1 := rfl
@[simp] theorem drawn_arg2 (s : State) : (drawn s).arg2 = s.arg2 := rfl
@[simp] theorem drawn_arg3 (s : State) : (drawn s).arg3 = s.arg3 := rfl
@[simp] theorem drawn_cmd (s : State) : (drawn s).cmd = s.cmd := rfl
@[simp] theorem drawn_status (s : State) : (drawn s).status = s.status := rfl
@[simp] theorem drawn_err (s : State) : (drawn s).err = s.err := rfl
@[simp] theorem drawn_latch (s : State) : (drawn s).latch = s.latch := rfl
@[simp] theorem drawn_fb (s : State) : (drawn s).fb = s.fb := rfl
@[simp] theorem drawn_msg (s : State) : (drawn s).msg = s.msg := rfl
@[simp] theorem drawn_text (s : State) : (drawn s).text = s.text := rfl
@[simp] theorem drawn_txbuf (s : State) : (drawn s).txbuf = s.txbuf := rfl
@[simp] theorem drawn_irqPrev (s : State) : (drawn s).irqPrev = s.irqPrev := rfl
@[simp] theorem drawn_refused (s : State) : (drawn s).refused = s.refused := rfl
@[simp] theorem drawn_refusedInRun (s : State) : (drawn s).refusedInRun = s.refusedInRun := rfl
@[simp] theorem drawn_radio (s : State) : (drawn s).radio = s.radio := rfl
@[simp] theorem drawn_dlog (s : State) : (drawn s).dlog = s.dlog := rfl
@[simp] theorem drawn_rlog (s : State) : (drawn s).rlog = s.rlog := rfl
@[simp] theorem drawn_params (s : State) : (drawn s).params = s.params := rfl
@[simp] theorem drawn_inputs (s : State) : (drawn s).inputs = s.inputs := rfl
@[simp] theorem drawn_hostData (s : State) : (drawn s).hostData = s.hostData := rfl
@[simp] theorem drawn_draws (s : State) :
    (drawn s).draws = s.draws + 1 := rfl

/-! `setListening` -/

@[simp] theorem setListening_arg0 (b : Bool) (s : State) : (setListening b s).arg0 = s.arg0 := rfl
@[simp] theorem setListening_arg1 (b : Bool) (s : State) : (setListening b s).arg1 = s.arg1 := rfl
@[simp] theorem setListening_arg2 (b : Bool) (s : State) : (setListening b s).arg2 = s.arg2 := rfl
@[simp] theorem setListening_arg3 (b : Bool) (s : State) : (setListening b s).arg3 = s.arg3 := rfl
@[simp] theorem setListening_cmd (b : Bool) (s : State) : (setListening b s).cmd = s.cmd := rfl
@[simp] theorem setListening_err (b : Bool) (s : State) : (setListening b s).err = s.err := rfl
@[simp] theorem setListening_latch (b : Bool) (s : State) : (setListening b s).latch = s.latch := rfl
@[simp] theorem setListening_fb (b : Bool) (s : State) : (setListening b s).fb = s.fb := rfl
@[simp] theorem setListening_msg (b : Bool) (s : State) : (setListening b s).msg = s.msg := rfl
@[simp] theorem setListening_text (b : Bool) (s : State) : (setListening b s).text = s.text := rfl
@[simp] theorem setListening_txbuf (b : Bool) (s : State) : (setListening b s).txbuf = s.txbuf := rfl
@[simp] theorem setListening_irqPrev (b : Bool) (s : State) : (setListening b s).irqPrev = s.irqPrev := rfl
@[simp] theorem setListening_refused (b : Bool) (s : State) : (setListening b s).refused = s.refused := rfl
@[simp] theorem setListening_refusedInRun (b : Bool) (s : State) : (setListening b s).refusedInRun = s.refusedInRun := rfl
@[simp] theorem setListening_radio (b : Bool) (s : State) : (setListening b s).radio = s.radio := rfl
@[simp] theorem setListening_dlog (b : Bool) (s : State) : (setListening b s).dlog = s.dlog := rfl
@[simp] theorem setListening_rlog (b : Bool) (s : State) : (setListening b s).rlog = s.rlog := rfl
@[simp] theorem setListening_params (b : Bool) (s : State) : (setListening b s).params = s.params := rfl
@[simp] theorem setListening_inputs (b : Bool) (s : State) : (setListening b s).inputs = s.inputs := rfl
@[simp] theorem setListening_hostData (b : Bool) (s : State) : (setListening b s).hostData = s.hostData := rfl
@[simp] theorem setListening_draws (b : Bool) (s : State) : (setListening b s).draws = s.draws := rfl
@[simp] theorem setListening_busy (b : Bool) (s : State) : (setListening b s).status.busy = s.status.busy := rfl
@[simp] theorem setListening_done (b : Bool) (s : State) : (setListening b s).status.done = s.status.done := rfl
@[simp] theorem setListening_dispInit (b : Bool) (s : State) : (setListening b s).status.dispInit = s.status.dispInit := rfl
@[simp] theorem setListening_radioInit (b : Bool) (s : State) : (setListening b s).status.radioInit = s.status.radioInit := rfl
@[simp] theorem setListening_radioFail (b : Bool) (s : State) : (setListening b s).status.radioFail = s.status.radioFail := rfl
@[simp] theorem setListening_evSent (b : Bool) (s : State) : (setListening b s).status.evSent = s.status.evSent := rfl
@[simp] theorem setListening_evFailed (b : Bool) (s : State) : (setListening b s).status.evFailed = s.status.evFailed := rfl
@[simp] theorem setListening_evReady (b : Bool) (s : State) : (setListening b s).status.evReady = s.status.evReady := rfl
@[simp] theorem setListening_txOk (b : Bool) (s : State) : (setListening b s).status.txOk = s.status.txOk := rfl
@[simp] theorem setListening_pixel (b : Bool) (s : State) : (setListening b s).status.pixel = s.status.pixel := rfl
@[simp] theorem setListening_ping (b : Bool) (s : State) : (setListening b s).status.ping = s.status.ping := rfl
@[simp] theorem setListening_wakeArmed (b : Bool) (s : State) : (setListening b s).status.wakeArmed = s.status.wakeArmed := rfl
@[simp] theorem setListening_wakePending (b : Bool) (s : State) : (setListening b s).status.wakePending = s.status.wakePending := rfl
@[simp] theorem setListening_wakeLevel (b : Bool) (s : State) : (setListening b s).status.wakeLevel = s.status.wakeLevel := rfl
@[simp] theorem setListening_listening (b : Bool) (s : State) :
    (setListening b s).status.listening = b := rfl

/-! `setTxOk` -/

@[simp] theorem setTxOk_arg0 (o : SendOutcome) (s : State) : (setTxOk o s).arg0 = s.arg0 := rfl
@[simp] theorem setTxOk_arg1 (o : SendOutcome) (s : State) : (setTxOk o s).arg1 = s.arg1 := rfl
@[simp] theorem setTxOk_arg2 (o : SendOutcome) (s : State) : (setTxOk o s).arg2 = s.arg2 := rfl
@[simp] theorem setTxOk_arg3 (o : SendOutcome) (s : State) : (setTxOk o s).arg3 = s.arg3 := rfl
@[simp] theorem setTxOk_cmd (o : SendOutcome) (s : State) : (setTxOk o s).cmd = s.cmd := rfl
@[simp] theorem setTxOk_err (o : SendOutcome) (s : State) : (setTxOk o s).err = s.err := rfl
@[simp] theorem setTxOk_latch (o : SendOutcome) (s : State) : (setTxOk o s).latch = s.latch := rfl
@[simp] theorem setTxOk_fb (o : SendOutcome) (s : State) : (setTxOk o s).fb = s.fb := rfl
@[simp] theorem setTxOk_msg (o : SendOutcome) (s : State) : (setTxOk o s).msg = s.msg := rfl
@[simp] theorem setTxOk_text (o : SendOutcome) (s : State) : (setTxOk o s).text = s.text := rfl
@[simp] theorem setTxOk_txbuf (o : SendOutcome) (s : State) : (setTxOk o s).txbuf = s.txbuf := rfl
@[simp] theorem setTxOk_irqPrev (o : SendOutcome) (s : State) : (setTxOk o s).irqPrev = s.irqPrev := rfl
@[simp] theorem setTxOk_refused (o : SendOutcome) (s : State) : (setTxOk o s).refused = s.refused := rfl
@[simp] theorem setTxOk_refusedInRun (o : SendOutcome) (s : State) : (setTxOk o s).refusedInRun = s.refusedInRun := rfl
@[simp] theorem setTxOk_radio (o : SendOutcome) (s : State) : (setTxOk o s).radio = s.radio := rfl
@[simp] theorem setTxOk_dlog (o : SendOutcome) (s : State) : (setTxOk o s).dlog = s.dlog := rfl
@[simp] theorem setTxOk_rlog (o : SendOutcome) (s : State) : (setTxOk o s).rlog = s.rlog := rfl
@[simp] theorem setTxOk_params (o : SendOutcome) (s : State) : (setTxOk o s).params = s.params := rfl
@[simp] theorem setTxOk_inputs (o : SendOutcome) (s : State) : (setTxOk o s).inputs = s.inputs := rfl
@[simp] theorem setTxOk_hostData (o : SendOutcome) (s : State) : (setTxOk o s).hostData = s.hostData := rfl
@[simp] theorem setTxOk_draws (o : SendOutcome) (s : State) : (setTxOk o s).draws = s.draws := rfl
@[simp] theorem setTxOk_busy (o : SendOutcome) (s : State) : (setTxOk o s).status.busy = s.status.busy := rfl
@[simp] theorem setTxOk_done (o : SendOutcome) (s : State) : (setTxOk o s).status.done = s.status.done := rfl
@[simp] theorem setTxOk_dispInit (o : SendOutcome) (s : State) : (setTxOk o s).status.dispInit = s.status.dispInit := rfl
@[simp] theorem setTxOk_radioInit (o : SendOutcome) (s : State) : (setTxOk o s).status.radioInit = s.status.radioInit := rfl
@[simp] theorem setTxOk_radioFail (o : SendOutcome) (s : State) : (setTxOk o s).status.radioFail = s.status.radioFail := rfl
@[simp] theorem setTxOk_listening (o : SendOutcome) (s : State) : (setTxOk o s).status.listening = s.status.listening := rfl
@[simp] theorem setTxOk_evSent (o : SendOutcome) (s : State) : (setTxOk o s).status.evSent = s.status.evSent := rfl
@[simp] theorem setTxOk_evFailed (o : SendOutcome) (s : State) : (setTxOk o s).status.evFailed = s.status.evFailed := rfl
@[simp] theorem setTxOk_evReady (o : SendOutcome) (s : State) : (setTxOk o s).status.evReady = s.status.evReady := rfl
@[simp] theorem setTxOk_pixel (o : SendOutcome) (s : State) : (setTxOk o s).status.pixel = s.status.pixel := rfl
@[simp] theorem setTxOk_ping (o : SendOutcome) (s : State) : (setTxOk o s).status.ping = s.status.ping := rfl
@[simp] theorem setTxOk_wakeArmed (o : SendOutcome) (s : State) : (setTxOk o s).status.wakeArmed = s.status.wakeArmed := rfl
@[simp] theorem setTxOk_wakePending (o : SendOutcome) (s : State) : (setTxOk o s).status.wakePending = s.status.wakePending := rfl
@[simp] theorem setTxOk_wakeLevel (o : SendOutcome) (s : State) : (setTxOk o s).status.wakeLevel = s.status.wakeLevel := rfl
@[simp] theorem setTxOk_txOk (o : SendOutcome) (s : State) :
    (setTxOk o s).status.txOk = (o == .ack) := rfl

/-! `setEvents` -/

@[simp] theorem setEvents_arg0 (a b c : Bool) (s : State) : (setEvents a b c s).arg0 = s.arg0 := rfl
@[simp] theorem setEvents_arg1 (a b c : Bool) (s : State) : (setEvents a b c s).arg1 = s.arg1 := rfl
@[simp] theorem setEvents_arg2 (a b c : Bool) (s : State) : (setEvents a b c s).arg2 = s.arg2 := rfl
@[simp] theorem setEvents_arg3 (a b c : Bool) (s : State) : (setEvents a b c s).arg3 = s.arg3 := rfl
@[simp] theorem setEvents_cmd (a b c : Bool) (s : State) : (setEvents a b c s).cmd = s.cmd := rfl
@[simp] theorem setEvents_err (a b c : Bool) (s : State) : (setEvents a b c s).err = s.err := rfl
@[simp] theorem setEvents_latch (a b c : Bool) (s : State) : (setEvents a b c s).latch = s.latch := rfl
@[simp] theorem setEvents_fb (a b c : Bool) (s : State) : (setEvents a b c s).fb = s.fb := rfl
@[simp] theorem setEvents_msg (a b c : Bool) (s : State) : (setEvents a b c s).msg = s.msg := rfl
@[simp] theorem setEvents_text (a b c : Bool) (s : State) : (setEvents a b c s).text = s.text := rfl
@[simp] theorem setEvents_txbuf (a b c : Bool) (s : State) : (setEvents a b c s).txbuf = s.txbuf := rfl
@[simp] theorem setEvents_irqPrev (a b c : Bool) (s : State) : (setEvents a b c s).irqPrev = s.irqPrev := rfl
@[simp] theorem setEvents_refused (a b c : Bool) (s : State) : (setEvents a b c s).refused = s.refused := rfl
@[simp] theorem setEvents_refusedInRun (a b c : Bool) (s : State) : (setEvents a b c s).refusedInRun = s.refusedInRun := rfl
@[simp] theorem setEvents_radio (a b c : Bool) (s : State) : (setEvents a b c s).radio = s.radio := rfl
@[simp] theorem setEvents_dlog (a b c : Bool) (s : State) : (setEvents a b c s).dlog = s.dlog := rfl
@[simp] theorem setEvents_rlog (a b c : Bool) (s : State) : (setEvents a b c s).rlog = s.rlog := rfl
@[simp] theorem setEvents_params (a b c : Bool) (s : State) : (setEvents a b c s).params = s.params := rfl
@[simp] theorem setEvents_inputs (a b c : Bool) (s : State) : (setEvents a b c s).inputs = s.inputs := rfl
@[simp] theorem setEvents_hostData (a b c : Bool) (s : State) : (setEvents a b c s).hostData = s.hostData := rfl
@[simp] theorem setEvents_draws (a b c : Bool) (s : State) : (setEvents a b c s).draws = s.draws := rfl
@[simp] theorem setEvents_busy (a b c : Bool) (s : State) : (setEvents a b c s).status.busy = s.status.busy := rfl
@[simp] theorem setEvents_done (a b c : Bool) (s : State) : (setEvents a b c s).status.done = s.status.done := rfl
@[simp] theorem setEvents_dispInit (a b c : Bool) (s : State) : (setEvents a b c s).status.dispInit = s.status.dispInit := rfl
@[simp] theorem setEvents_radioInit (a b c : Bool) (s : State) : (setEvents a b c s).status.radioInit = s.status.radioInit := rfl
@[simp] theorem setEvents_radioFail (a b c : Bool) (s : State) : (setEvents a b c s).status.radioFail = s.status.radioFail := rfl
@[simp] theorem setEvents_listening (a b c : Bool) (s : State) : (setEvents a b c s).status.listening = s.status.listening := rfl
@[simp] theorem setEvents_txOk (a b c : Bool) (s : State) : (setEvents a b c s).status.txOk = s.status.txOk := rfl
@[simp] theorem setEvents_pixel (a b c : Bool) (s : State) : (setEvents a b c s).status.pixel = s.status.pixel := rfl
@[simp] theorem setEvents_ping (a b c : Bool) (s : State) : (setEvents a b c s).status.ping = s.status.ping := rfl
@[simp] theorem setEvents_wakeArmed (a b c : Bool) (s : State) : (setEvents a b c s).status.wakeArmed = s.status.wakeArmed := rfl
@[simp] theorem setEvents_wakePending (a b c : Bool) (s : State) : (setEvents a b c s).status.wakePending = s.status.wakePending := rfl
@[simp] theorem setEvents_wakeLevel (a b c : Bool) (s : State) : (setEvents a b c s).status.wakeLevel = s.status.wakeLevel := rfl
@[simp] theorem setEvents_evSent (a b c : Bool) (s : State) :
    (setEvents a b c s).status.evSent = a := rfl
@[simp] theorem setEvents_evFailed (a b c : Bool) (s : State) :
    (setEvents a b c s).status.evFailed = b := rfl
@[simp] theorem setEvents_evReady (a b c : Bool) (s : State) :
    (setEvents a b c s).status.evReady = c := rfl

/-! `setPing` -/

@[simp] theorem setPing_arg0 (b : Bool) (s : State) : (setPing b s).arg0 = s.arg0 := rfl
@[simp] theorem setPing_arg1 (b : Bool) (s : State) : (setPing b s).arg1 = s.arg1 := rfl
@[simp] theorem setPing_arg2 (b : Bool) (s : State) : (setPing b s).arg2 = s.arg2 := rfl
@[simp] theorem setPing_arg3 (b : Bool) (s : State) : (setPing b s).arg3 = s.arg3 := rfl
@[simp] theorem setPing_cmd (b : Bool) (s : State) : (setPing b s).cmd = s.cmd := rfl
@[simp] theorem setPing_err (b : Bool) (s : State) : (setPing b s).err = s.err := rfl
@[simp] theorem setPing_latch (b : Bool) (s : State) : (setPing b s).latch = s.latch := rfl
@[simp] theorem setPing_fb (b : Bool) (s : State) : (setPing b s).fb = s.fb := rfl
@[simp] theorem setPing_msg (b : Bool) (s : State) : (setPing b s).msg = s.msg := rfl
@[simp] theorem setPing_text (b : Bool) (s : State) : (setPing b s).text = s.text := rfl
@[simp] theorem setPing_txbuf (b : Bool) (s : State) : (setPing b s).txbuf = s.txbuf := rfl
@[simp] theorem setPing_irqPrev (b : Bool) (s : State) : (setPing b s).irqPrev = s.irqPrev := rfl
@[simp] theorem setPing_refused (b : Bool) (s : State) : (setPing b s).refused = s.refused := rfl
@[simp] theorem setPing_refusedInRun (b : Bool) (s : State) : (setPing b s).refusedInRun = s.refusedInRun := rfl
@[simp] theorem setPing_radio (b : Bool) (s : State) : (setPing b s).radio = s.radio := rfl
@[simp] theorem setPing_dlog (b : Bool) (s : State) : (setPing b s).dlog = s.dlog := rfl
@[simp] theorem setPing_rlog (b : Bool) (s : State) : (setPing b s).rlog = s.rlog := rfl
@[simp] theorem setPing_params (b : Bool) (s : State) : (setPing b s).params = s.params := rfl
@[simp] theorem setPing_inputs (b : Bool) (s : State) : (setPing b s).inputs = s.inputs := rfl
@[simp] theorem setPing_hostData (b : Bool) (s : State) : (setPing b s).hostData = s.hostData := rfl
@[simp] theorem setPing_draws (b : Bool) (s : State) : (setPing b s).draws = s.draws := rfl
@[simp] theorem setPing_busy (b : Bool) (s : State) : (setPing b s).status.busy = s.status.busy := rfl
@[simp] theorem setPing_done (b : Bool) (s : State) : (setPing b s).status.done = s.status.done := rfl
@[simp] theorem setPing_dispInit (b : Bool) (s : State) : (setPing b s).status.dispInit = s.status.dispInit := rfl
@[simp] theorem setPing_radioInit (b : Bool) (s : State) : (setPing b s).status.radioInit = s.status.radioInit := rfl
@[simp] theorem setPing_radioFail (b : Bool) (s : State) : (setPing b s).status.radioFail = s.status.radioFail := rfl
@[simp] theorem setPing_listening (b : Bool) (s : State) : (setPing b s).status.listening = s.status.listening := rfl
@[simp] theorem setPing_evSent (b : Bool) (s : State) : (setPing b s).status.evSent = s.status.evSent := rfl
@[simp] theorem setPing_evFailed (b : Bool) (s : State) : (setPing b s).status.evFailed = s.status.evFailed := rfl
@[simp] theorem setPing_evReady (b : Bool) (s : State) : (setPing b s).status.evReady = s.status.evReady := rfl
@[simp] theorem setPing_txOk (b : Bool) (s : State) : (setPing b s).status.txOk = s.status.txOk := rfl
@[simp] theorem setPing_pixel (b : Bool) (s : State) : (setPing b s).status.pixel = s.status.pixel := rfl
@[simp] theorem setPing_wakeArmed (b : Bool) (s : State) : (setPing b s).status.wakeArmed = s.status.wakeArmed := rfl
@[simp] theorem setPing_wakePending (b : Bool) (s : State) : (setPing b s).status.wakePending = s.status.wakePending := rfl
@[simp] theorem setPing_wakeLevel (b : Bool) (s : State) : (setPing b s).status.wakeLevel = s.status.wakeLevel := rfl
@[simp] theorem setPing_ping (b : Bool) (s : State) :
    (setPing b s).status.ping = b := rfl

/-! `recordInit` -/

@[simp] theorem recordInit_arg0 (b : Bool) (s : State) : (recordInit b s).arg0 = s.arg0 := rfl
@[simp] theorem recordInit_arg1 (b : Bool) (s : State) : (recordInit b s).arg1 = s.arg1 := rfl
@[simp] theorem recordInit_arg2 (b : Bool) (s : State) : (recordInit b s).arg2 = s.arg2 := rfl
@[simp] theorem recordInit_arg3 (b : Bool) (s : State) : (recordInit b s).arg3 = s.arg3 := rfl
@[simp] theorem recordInit_cmd (b : Bool) (s : State) : (recordInit b s).cmd = s.cmd := rfl
@[simp] theorem recordInit_err (b : Bool) (s : State) : (recordInit b s).err = s.err := rfl
@[simp] theorem recordInit_latch (b : Bool) (s : State) : (recordInit b s).latch = s.latch := rfl
@[simp] theorem recordInit_fb (b : Bool) (s : State) : (recordInit b s).fb = s.fb := rfl
@[simp] theorem recordInit_msg (b : Bool) (s : State) : (recordInit b s).msg = s.msg := rfl
@[simp] theorem recordInit_text (b : Bool) (s : State) : (recordInit b s).text = s.text := rfl
@[simp] theorem recordInit_txbuf (b : Bool) (s : State) : (recordInit b s).txbuf = s.txbuf := rfl
@[simp] theorem recordInit_irqPrev (b : Bool) (s : State) : (recordInit b s).irqPrev = s.irqPrev := rfl
@[simp] theorem recordInit_refused (b : Bool) (s : State) : (recordInit b s).refused = s.refused := rfl
@[simp] theorem recordInit_refusedInRun (b : Bool) (s : State) : (recordInit b s).refusedInRun = s.refusedInRun := rfl
@[simp] theorem recordInit_radio (b : Bool) (s : State) : (recordInit b s).radio = s.radio := rfl
@[simp] theorem recordInit_dlog (b : Bool) (s : State) : (recordInit b s).dlog = s.dlog := rfl
@[simp] theorem recordInit_rlog (b : Bool) (s : State) : (recordInit b s).rlog = s.rlog := rfl
@[simp] theorem recordInit_params (b : Bool) (s : State) : (recordInit b s).params = s.params := rfl
@[simp] theorem recordInit_inputs (b : Bool) (s : State) : (recordInit b s).inputs = s.inputs := rfl
@[simp] theorem recordInit_hostData (b : Bool) (s : State) : (recordInit b s).hostData = s.hostData := rfl
@[simp] theorem recordInit_draws (b : Bool) (s : State) : (recordInit b s).draws = s.draws := rfl
@[simp] theorem recordInit_busy (b : Bool) (s : State) : (recordInit b s).status.busy = s.status.busy := rfl
@[simp] theorem recordInit_done (b : Bool) (s : State) : (recordInit b s).status.done = s.status.done := rfl
@[simp] theorem recordInit_dispInit (b : Bool) (s : State) : (recordInit b s).status.dispInit = s.status.dispInit := rfl
@[simp] theorem recordInit_radioInit (b : Bool) (s : State) : (recordInit b s).status.radioInit = s.status.radioInit := rfl
@[simp] theorem recordInit_evSent (b : Bool) (s : State) : (recordInit b s).status.evSent = s.status.evSent := rfl
@[simp] theorem recordInit_evFailed (b : Bool) (s : State) : (recordInit b s).status.evFailed = s.status.evFailed := rfl
@[simp] theorem recordInit_evReady (b : Bool) (s : State) : (recordInit b s).status.evReady = s.status.evReady := rfl
@[simp] theorem recordInit_txOk (b : Bool) (s : State) : (recordInit b s).status.txOk = s.status.txOk := rfl
@[simp] theorem recordInit_pixel (b : Bool) (s : State) : (recordInit b s).status.pixel = s.status.pixel := rfl
@[simp] theorem recordInit_ping (b : Bool) (s : State) : (recordInit b s).status.ping = s.status.ping := rfl
@[simp] theorem recordInit_wakeArmed (b : Bool) (s : State) : (recordInit b s).status.wakeArmed = s.status.wakeArmed := rfl
@[simp] theorem recordInit_wakePending (b : Bool) (s : State) : (recordInit b s).status.wakePending = s.status.wakePending := rfl
@[simp] theorem recordInit_wakeLevel (b : Bool) (s : State) : (recordInit b s).status.wakeLevel = s.status.wakeLevel := rfl
@[simp] theorem recordInit_listening (b : Bool) (s : State) :
    (recordInit b s).status.listening = b := rfl
@[simp] theorem recordInit_radioFail (b : Bool) (s : State) :
    (recordInit b s).status.radioFail = (s.status.radioFail || !b) := rfl

/-! `writeStatus` -/

@[simp] theorem writeStatus_arg0 (v : Word) (s : State) : (writeStatus v s).arg0 = s.arg0 := rfl
@[simp] theorem writeStatus_arg1 (v : Word) (s : State) : (writeStatus v s).arg1 = s.arg1 := rfl
@[simp] theorem writeStatus_arg2 (v : Word) (s : State) : (writeStatus v s).arg2 = s.arg2 := rfl
@[simp] theorem writeStatus_arg3 (v : Word) (s : State) : (writeStatus v s).arg3 = s.arg3 := rfl
@[simp] theorem writeStatus_cmd (v : Word) (s : State) : (writeStatus v s).cmd = s.cmd := rfl
@[simp] theorem writeStatus_err (v : Word) (s : State) : (writeStatus v s).err = s.err := rfl
@[simp] theorem writeStatus_latch (v : Word) (s : State) : (writeStatus v s).latch = s.latch := rfl
@[simp] theorem writeStatus_fb (v : Word) (s : State) : (writeStatus v s).fb = s.fb := rfl
@[simp] theorem writeStatus_msg (v : Word) (s : State) : (writeStatus v s).msg = s.msg := rfl
@[simp] theorem writeStatus_text (v : Word) (s : State) : (writeStatus v s).text = s.text := rfl
@[simp] theorem writeStatus_txbuf (v : Word) (s : State) : (writeStatus v s).txbuf = s.txbuf := rfl
@[simp] theorem writeStatus_irqPrev (v : Word) (s : State) : (writeStatus v s).irqPrev = s.irqPrev := rfl
@[simp] theorem writeStatus_refused (v : Word) (s : State) : (writeStatus v s).refused = s.refused := rfl
@[simp] theorem writeStatus_refusedInRun (v : Word) (s : State) : (writeStatus v s).refusedInRun = s.refusedInRun := rfl
@[simp] theorem writeStatus_radio (v : Word) (s : State) : (writeStatus v s).radio = s.radio := rfl
@[simp] theorem writeStatus_dlog (v : Word) (s : State) : (writeStatus v s).dlog = s.dlog := rfl
@[simp] theorem writeStatus_rlog (v : Word) (s : State) : (writeStatus v s).rlog = s.rlog := rfl
@[simp] theorem writeStatus_params (v : Word) (s : State) : (writeStatus v s).params = s.params := rfl
@[simp] theorem writeStatus_inputs (v : Word) (s : State) : (writeStatus v s).inputs = s.inputs := rfl
@[simp] theorem writeStatus_hostData (v : Word) (s : State) : (writeStatus v s).hostData = s.hostData := rfl
@[simp] theorem writeStatus_draws (v : Word) (s : State) : (writeStatus v s).draws = s.draws := rfl
@[simp] theorem writeStatus_busy (v : Word) (s : State) : (writeStatus v s).status.busy = s.status.busy := rfl
@[simp] theorem writeStatus_dispInit (v : Word) (s : State) : (writeStatus v s).status.dispInit = s.status.dispInit := rfl
@[simp] theorem writeStatus_radioInit (v : Word) (s : State) : (writeStatus v s).status.radioInit = s.status.radioInit := rfl
@[simp] theorem writeStatus_radioFail (v : Word) (s : State) : (writeStatus v s).status.radioFail = s.status.radioFail := rfl
@[simp] theorem writeStatus_listening (v : Word) (s : State) : (writeStatus v s).status.listening = s.status.listening := rfl
@[simp] theorem writeStatus_evSent (v : Word) (s : State) : (writeStatus v s).status.evSent = s.status.evSent := rfl
@[simp] theorem writeStatus_evFailed (v : Word) (s : State) : (writeStatus v s).status.evFailed = s.status.evFailed := rfl
@[simp] theorem writeStatus_evReady (v : Word) (s : State) : (writeStatus v s).status.evReady = s.status.evReady := rfl
@[simp] theorem writeStatus_txOk (v : Word) (s : State) : (writeStatus v s).status.txOk = s.status.txOk := rfl
@[simp] theorem writeStatus_pixel (v : Word) (s : State) : (writeStatus v s).status.pixel = s.status.pixel := rfl
@[simp] theorem writeStatus_ping (v : Word) (s : State) : (writeStatus v s).status.ping = s.status.ping := rfl
@[simp] theorem writeStatus_wakeArmed (v : Word) (s : State) : (writeStatus v s).status.wakeArmed = s.status.wakeArmed := rfl
@[simp] theorem writeStatus_wakeLevel (v : Word) (s : State) : (writeStatus v s).status.wakeLevel = s.status.wakeLevel := rfl
@[simp] theorem writeStatus_done (v : Word) (s : State) :
    (writeStatus v s).status.done = (s.status.done && !v.getLsbD 1) := rfl
@[simp] theorem writeStatus_wakePending (v : Word) (s : State) :
    (writeStatus v s).status.wakePending = (s.status.wakePending && !v.getLsbD 13) := rfl

/-! `refuseAccess` -/

@[simp] theorem refuseAccess_arg0 (s : State) : (refuseAccess s).arg0 = s.arg0 := rfl
@[simp] theorem refuseAccess_arg1 (s : State) : (refuseAccess s).arg1 = s.arg1 := rfl
@[simp] theorem refuseAccess_arg2 (s : State) : (refuseAccess s).arg2 = s.arg2 := rfl
@[simp] theorem refuseAccess_arg3 (s : State) : (refuseAccess s).arg3 = s.arg3 := rfl
@[simp] theorem refuseAccess_cmd (s : State) : (refuseAccess s).cmd = s.cmd := rfl
@[simp] theorem refuseAccess_status (s : State) : (refuseAccess s).status = s.status := rfl
@[simp] theorem refuseAccess_err (s : State) : (refuseAccess s).err = s.err := rfl
@[simp] theorem refuseAccess_latch (s : State) : (refuseAccess s).latch = s.latch := rfl
@[simp] theorem refuseAccess_fb (s : State) : (refuseAccess s).fb = s.fb := rfl
@[simp] theorem refuseAccess_msg (s : State) : (refuseAccess s).msg = s.msg := rfl
@[simp] theorem refuseAccess_text (s : State) : (refuseAccess s).text = s.text := rfl
@[simp] theorem refuseAccess_txbuf (s : State) : (refuseAccess s).txbuf = s.txbuf := rfl
@[simp] theorem refuseAccess_irqPrev (s : State) : (refuseAccess s).irqPrev = s.irqPrev := rfl
@[simp] theorem refuseAccess_radio (s : State) : (refuseAccess s).radio = s.radio := rfl
@[simp] theorem refuseAccess_dlog (s : State) : (refuseAccess s).dlog = s.dlog := rfl
@[simp] theorem refuseAccess_rlog (s : State) : (refuseAccess s).rlog = s.rlog := rfl
@[simp] theorem refuseAccess_params (s : State) : (refuseAccess s).params = s.params := rfl
@[simp] theorem refuseAccess_inputs (s : State) : (refuseAccess s).inputs = s.inputs := rfl
@[simp] theorem refuseAccess_hostData (s : State) : (refuseAccess s).hostData = s.hostData := rfl
@[simp] theorem refuseAccess_draws (s : State) : (refuseAccess s).draws = s.draws := rfl
@[simp] theorem refuseAccess_refused (s : State) :
    (refuseAccess s).refused = true := rfl
@[simp] theorem refuseAccess_refusedInRun (s : State) :
    (refuseAccess s).refusedInRun = true := rfl

/-! `blockReset` -/

@[simp] theorem blockReset_arg0 (s : State) : (blockReset s).arg0 = 0#16 := rfl
@[simp] theorem blockReset_arg1 (s : State) : (blockReset s).arg1 = 0#16 := rfl
@[simp] theorem blockReset_arg2 (s : State) : (blockReset s).arg2 = 0#16 := rfl
@[simp] theorem blockReset_arg3 (s : State) : (blockReset s).arg3 = 0#16 := rfl
@[simp] theorem blockReset_cmd (s : State) : (blockReset s).cmd = 0x00000000#32 := rfl
@[simp] theorem blockReset_status (s : State) : (blockReset s).status = Status.reset := rfl
@[simp] theorem blockReset_err (s : State) : (blockReset s).err = Err.clear := rfl
@[simp] theorem blockReset_latch (s : State) : (blockReset s).latch = none := rfl
@[simp] theorem blockReset_fb (s : State) : (blockReset s).fb = fbAtReset s.draws := rfl
@[simp] theorem blockReset_msg (s : State) :
    (blockReset s).msg = bufOf Config.payloadSize (Config.resetMsg s.draws) := rfl
@[simp] theorem blockReset_text (s : State) :
    (blockReset s).text = bufOf Config.textLen (Config.resetText s.draws) := rfl
@[simp] theorem blockReset_txbuf (s : State) :
    (blockReset s).txbuf = bufOf Config.payloadSize (Config.resetTxbuf s.draws) := rfl
@[simp] theorem blockReset_irqPrev (s : State) : (blockReset s).irqPrev = irqLevel s.radio := rfl
@[simp] theorem blockReset_refused (s : State) : (blockReset s).refused = false := rfl
@[simp] theorem blockReset_refusedInRun (s : State) : (blockReset s).refusedInRun = s.refusedInRun := rfl
@[simp] theorem blockReset_radio (s : State) : (blockReset s).radio = s.radio := rfl
@[simp] theorem blockReset_dlog (s : State) : (blockReset s).dlog = s.dlog := rfl
@[simp] theorem blockReset_rlog (s : State) : (blockReset s).rlog = s.rlog := rfl
@[simp] theorem blockReset_params (s : State) : (blockReset s).params = s.params := rfl
@[simp] theorem blockReset_inputs (s : State) : (blockReset s).inputs = s.inputs := rfl
@[simp] theorem blockReset_hostData (s : State) : (blockReset s).hostData = s.hostData := rfl
@[simp] theorem blockReset_draws (s : State) : (blockReset s).draws = s.draws + 1 := rfl

end Sys2Proof.Machine
end

