-- ==== Sys2Proof/Laws/Buffers.lean ====
section
/-! SUPPORT. Reads after writes of a byte buffer, and of the framebuffer's operations. Buffers have their length in
their type, so every operation keeps it. -/

namespace Sys2Proof.Machine

variable {n : Nat}

theorem byteAt_of_lt (b : Buf n) {i : Nat} (h : i < n) : byteAt b i = b[i] := by
  simp [byteAt, List.getD, h]

theorem byteAt_of_ge (b : Buf n) {i : Nat} (h : n ≤ i) : byteAt b i = 0#8 := by
  simp [byteAt, List.getD, h]

/-- A buffer is its bytes. -/
theorem buf_ext {a b : Buf n} (h : ∀ i, i < n → byteAt a i = byteAt b i) : a = b := by
  apply Vector.ext
  intro i hi
  rw [← byteAt_of_lt a hi, ← byteAt_of_lt b hi, h i hi]

/-- A read after a write: the written byte where it was written, the old byte everywhere else. -/
theorem byteAt_setByte (b : Buf n) (i j : Nat) (v : Byte) :
    byteAt (setByte b i v) j = if j = i ∧ i < n then v else byteAt b j := by
  by_cases hj : j < n
  · rw [byteAt_of_lt _ hj, byteAt_of_lt _ hj, setByte, Vector.getElem_setIfInBounds hj]
    by_cases h : i = j
    · subst h; simp [hj]
    · have : ¬ j = i := fun e => h e.symm
      simp [h, this]
  · rw [byteAt_of_ge _ (by omega), byteAt_of_ge _ (by omega)]
    rw [if_neg]; omega

theorem byteAt_setByte_ne (b : Buf n) {i j : Nat} (v : Byte) (h : j ≠ i) : byteAt (setByte b i v) j = byteAt b j := by
  simp [byteAt_setByte, h]

/-- The bytes of a buffer given by a function. -/
theorem byteAt_bufOf (f : Nat → Byte) (i : Nat) : byteAt (bufOf n f) i = if i < n then f i else 0#8 := by
  by_cases h : i < n
  · simp [byteAt, bufOf, List.getD, h]
  · rw [byteAt_of_ge _ (by omega), if_neg h]

/-- In range, the byte of a pixel is one of the 512 pixel bytes (R105). -/
theorem pixIndex_bounds {x y : Int} (h : inRange x y = true) : 1 ≤ pixIndex x y ∧ pixIndex x y < Config.fbLen := by
  simp only [inRange, Bool.and_eq_true, decide_eq_true_eq, Nat.cast_ofNat] at h
  simp only [pixIndex, Nat.cast_ofNat, Config.fbLen]
  omega

/-- What SetPix does to a byte of FB (R107). -/
theorem byteAt_setPix (x y : Int) (on : Bool) (f : Frame) (i : Nat) :
    byteAt (setPix x y on f) i =
      if inRange x y = true ∧ i = pixIndex x y then
        if on then byteAt f i ||| pixMask y else byteAt f i &&& ~~~(pixMask y)
      else byteAt f i := by
  unfold setPix
  by_cases h : inRange x y = true
  · rw [if_pos h, byteAt_setByte]
    by_cases hi : i = pixIndex x y
    · subst hi; simp [h, (pixIndex_bounds h).2]
    · simp [hi]
  · simp [h]

/-- SetPix out of range changes nothing (R107). -/
theorem setPix_outOfRange {x y : Int} (on : Bool) (f : Frame) (h : inRange x y = false) : setPix x y on f = f := by
  simp [setPix, h]

/-- SetPix never writes FB[0] (R107). -/
theorem byteAt_setPix_zero (x y : Int) (on : Bool) (f : Frame) : byteAt (setPix x y on f) 0 = byteAt f 0 := by
  rw [byteAt_setPix, if_neg]
  rintro ⟨h, h0⟩
  have := (pixIndex_bounds h).1
  omega

/-- Lines never write FB[0]. -/
theorem byteAt_setCells_zero (on : Bool) (cells : List (Int × Int)) (f : Frame) :
    byteAt (setCells on cells f) 0 = byteAt f 0 := by
  induction cells generalizing f with
  | nil => rfl
  | cons c cs ih => exact (ih _).trans (byteAt_setPix_zero _ _ _ _)

/-- A glyph column goes to at most one byte, at or after FB[1] (R123). -/
theorem byteAt_glyphColumn (p : Params) (x y : Int) (ch : Byte) (f : Frame) (i k : Nat) (hy : 0 ≤ y)
    (hy' : y < Config.height) :
    byteAt (glyphColumn p x y ch f i) k =
      if (0 ≤ x + i ∧ x + i < Config.width) ∧ (k : Int) = 1 + y / 8 * Config.width + (x + i) then fontColumn p ch i
      else byteAt f k := by
  unfold glyphColumn
  by_cases h : 0 ≤ x + i ∧ x + i < Config.width
  · rw [if_pos h, byteAt_setByte]
    simp only [h, and_self, true_and]
    simp only [Nat.cast_ofNat, Config.fbLen] at *
    congr 1
    simp only [eq_iff_iff]
    constructor
    · rintro ⟨h1, -⟩; omega
    · intro h1; constructor <;> omega
  · rw [if_neg h, if_neg (fun h' => h h'.1)]

/-- Glyphs never write FB[0]. -/
theorem byteAt_glyphAt_zero (p : Params) (x y : Int) (ch : Byte) (f : Frame) :
    byteAt (glyphAt p x y ch f) 0 = byteAt f 0 := by
  unfold glyphAt
  split
  · rename_i h
    have key : ∀ (l : List Nat) (g : Frame), byteAt (l.foldl (glyphColumn p x y ch) g) 0 = byteAt g 0 := by
      intro l
      induction l with
      | nil => intro g; rfl
      | cons i l ih =>
        intro g
        rw [List.foldl_cons, ih, byteAt_glyphColumn _ _ _ _ _ _ _ h.2.1 h.2.2, if_neg]
        simp only [Nat.cast_ofNat] at *
        omega
    exact key _ _
  · rfl

/-- Text never writes FB[0]. -/
theorem byteAt_drawText_zero (p : Params) (y : Int) (cs : List Byte) (x : Int) (f : Frame) :
    byteAt (drawText p y cs x f) 0 = byteAt f 0 := by
  induction cs generalizing x f with
  | nil => rfl
  | cons c cs ih => exact (ih _ _).trans (byteAt_glyphAt_zero _ _ _ _ _)

/-- CLEAR's bytes (R108). -/
theorem byteAt_clearPixels (f : Frame) (i : Nat) : byteAt (clearPixels f) i = if i = 0 then byteAt f 0 else 0#8 := by
  unfold clearPixels
  rw [byteAt_bufOf]
  by_cases h : i < Config.fbLen
  · simp [h]
  · have h0 : i ≠ 0 := fun e => h (by simp [e])
    rw [if_neg h, if_neg h0]

end Sys2Proof.Machine
end

