-- ==== Sys2Proof/Laws/Ops.lean ====
section
/-! SUPPORT. For each shared operation, everything it can do when it answers a next state: the lemmas to cite instead
of unfolding it. -/

namespace Sys2Proof.Machine

/-! ### The detector and the ends of an engine step -/

/-- With `irq_prev` at the pin level, an evaluation of the detector changes nothing. -/
theorem detectorFires_of_settled {s : State} (h : Settled s) : detectorFires s = false := by
  unfold detectorFires
  rw [h]
  cases s.status.wakeArmed <;> cases irqLevel s.radio <;> cases s.status.wakeLevel <;> rfl

theorem detect_of_settled {s : State} (h : Settled s) : detect s = s := by
  have h' := detectorFires_of_settled h
  cases s
  simp_all [detect, Settled]

/-- Every evaluation leaves `irq_prev` at the pin level. -/
theorem settled_detect (s : State) : Settled (detect s) := rfl

/-- A completed command, with `irq_prev` at the pin level: BUSY, DONE and the latch only (R72). -/
theorem completed_of_settled {s : State} (h : Settled s) :
    completed s = { s with status := doneStatus s.status, latch := none } := by
  unfold completed
  rw [detect_of_settled (s := { s with status := { s.status with busy := false, done := true }, latch := none }) h]
  rfl

/-- A failed command, with `irq_prev` at the pin level: ERR, BUSY and the latch only (R190). -/
theorem failed_of_settled {s : State} (c : ErrorCode) (h : Settled s) : failed c s = afterError c s := by
  unfold failed
  rw [detect_of_settled
    (s := { s with err := Err.record c s.err, status := { s.status with busy := false }, latch := none }) h]
  rfl

theorem complete_eq (s : State) : complete s = .next (completed s) := rfl

theorem failWith_eq (c : ErrorCode) (s : State) : failWith c s = .next (failed c s) := rfl

/-- The first error's code stays and later ones set MORE (R190). -/
theorem record_code (c : ErrorCode) (e : Err) :
    (Err.record c e).code = if e.code = .noError then c else e.code := by
  unfold Err.record; split <;> simp_all

theorem record_more (c : ErrorCode) (e : Err) :
    (Err.record c e).more = if e.code = .noError then e.more else true := by
  unfold Err.record; split <;> simp_all

/-! ### The latch -/

theorem withLatch_some {s : State} {l : Latch} (k : Latch → Answer) (h : s.latch = some l) : withLatch s k = k l := by
  simp [withLatch, h]

theorem withLatch_next {s t : State} {k : Latch → Answer} (h : withLatch s k = .next t) :
    ∃ l, s.latch = some l ∧ k l = .next t := by
  unfold withLatch at h
  split at h
  · exact ⟨_, ‹_›, h⟩
  · cases h

/-- What the engine finds, by BUSY and the latch (R72). -/
theorem fetch_command_iff (s : State) (i : Instr) :
    fetch s = .command i ↔ s.status.busy = true ∧ ∃ l, s.latch = some l ∧ decode l.word = .ok i := by
  unfold fetch
  cases s.status.busy <;> cases hl : s.latch <;> simp
  split <;> simp_all

theorem fetch_idle_iff (s : State) : fetch s = .idle ↔ s.status.busy = false := by
  unfold fetch
  cases s.status.busy <;> simp
  split
  · simp
  · split <;> simp

/-! ### The radio -/

/-- The gate passes, or raises the first error that applies (R153). -/
theorem gated_cases (s : State) (k : State → Answer) :
    (s.status.radioInit = false ∧ gated s k = failWith .notInit s) ∨
    (s.status.radioInit = true ∧ s.status.radioFail = true ∧ gated s k = failWith .radioDown s) ∨
    (s.status.radioInit = true ∧ s.status.radioFail = false ∧ gated s k = k s) := by
  unfold gated
  cases s.status.radioInit <;> cases s.status.radioFail <;> simp

theorem gated_open {s : State} (k : State → Answer) (hi : s.status.radioInit = true) (hf : s.status.radioFail = false) :
    gated s k = k s := by
  simp [gated, hi, hf]

theorem radioMode_configured {s : State} (m : LinkMode) (k : State → Answer) (h : s.radio.cfg = true) :
    radioMode m s k = k (afterMode m s) := by
  simp [radioMode, h]

theorem radioMode_next {s t : State} {m : LinkMode} {k : State → Answer} (h : radioMode m s k = .next t) :
    s.radio.cfg = true ∧ k (afterMode m s) = .next t := by
  unfold radioMode at h
  split at h
  · exact ⟨‹_›, h⟩
  · cases h

theorem radioFlags_configured {s : State} (k : Bool → Bool → Bool → State → Answer) (h : s.radio.cfg = true) :
    radioFlags s k = k s.radio.fSent s.radio.fFailed s.radio.fReady (afterFlags s) := by
  simp [radioFlags, h]

theorem radioFlags_next {s t : State} {k : Bool → Bool → Bool → State → Answer} (h : radioFlags s k = .next t) :
    s.radio.cfg = true ∧ k s.radio.fSent s.radio.fFailed s.radio.fReady (afterFlags s) = .next t := by
  unfold radioFlags at h
  split at h
  · exact ⟨‹_›, h⟩
  · cases h

/-- RREAD of a queue with a head gives the head (R150). -/
theorem radioRead_cons {s : State} {p : Payload} {q : List Payload} (k : Payload → State → Answer)
    (hc : s.radio.cfg = true) (hq : s.radio.rxq = p :: q) : radioRead s k = k p (afterRead p s) := by
  simp [radioRead, hc, hq]

/-- RREAD of an empty queue gives drawn bytes (R150, R159). -/
theorem radioRead_nil {s : State} (k : Payload → State → Answer) (hc : s.radio.cfg = true) (hq : s.radio.rxq = []) :
    radioRead s k = k (Config.emptyRead s.draws) (afterRead (Config.emptyRead s.draws) (drawn s)) := by
  simp [radioRead, hc, hq]

theorem radioRead_next {s t : State} {k : Payload → State → Answer} (h : radioRead s k = .next t) :
    s.radio.cfg = true ∧
      ∃ p u, (u = s ∨ u = drawn s) ∧ (∀ q r, s.radio.rxq = q :: r → p = q ∧ u = s) ∧ k p (afterRead p u) = .next t := by
  unfold radioRead at h
  split at h
  · refine ⟨‹_›, ?_⟩
    split at h
    · rename_i p q hq
      refine ⟨p, s, .inl rfl, ?_, h⟩
      intro q' r' h'
      rw [hq] at h'
      cases h'
      exact ⟨rfl, rfl⟩
    · rename_i hq
      refine ⟨_, _, .inr rfl, ?_, h⟩
      intro q' r' h'
      rw [hq] at h'
      cases h'
  · cases h

/-- What RSEND writes in RADIO: the two send flags and `txp`, nothing else (R163). -/
theorem sent_eq (d : SendDraws) (r : Radio) :
    r.sent d = { r with
      fSent := (r.fSent || (r.txp && d.earlierSent)) || (d.outcome == .ack && d.keep)
      fFailed := (r.fFailed || (r.txp && !d.earlierSent)) || (d.outcome == .maxRt && d.keep)
      txp := d.outcome == .timeout } := by
  rcases d with ⟨e, o, k⟩
  rcases r with ⟨_, _, _, _, _, _, _, txp, _⟩
  cases txp <;> cases o <;> simp [Radio.sent, Radio.endSend]

@[simp] theorem sent_cfg (d : SendDraws) (r : Radio) : (r.sent d).cfg = r.cfg := by rw [sent_eq]

@[simp] theorem sent_mode (d : SendDraws) (r : Radio) : (r.sent d).mode = r.mode := by rw [sent_eq]

@[simp] theorem sent_present (d : SendDraws) (r : Radio) : (r.sent d).present = r.present := by rw [sent_eq]

@[simp] theorem sent_rxq (d : SendDraws) (r : Radio) : (r.sent d).rxq = r.rxq := by rw [sent_eq]

@[simp] theorem sent_fReady (d : SendDraws) (r : Radio) : (r.sent d).fReady = r.fReady := by rw [sent_eq]

theorem radioSend_ready {s : State} (p : Payload) (k : SendOutcome → State → Answer) (hc : s.radio.cfg = true)
    (hm : s.radio.mode = .tx) :
    radioSend p s k = k (Config.sendDraws s.draws).outcome (afterSend p (Config.sendDraws s.draws) (drawn s)) := by
  simp [radioSend, hc, hm]

theorem radioSend_next {s t : State} {p : Payload} {k : SendOutcome → State → Answer} (h : radioSend p s k = .next t) :
    s.radio.cfg = true ∧ s.radio.mode = .tx ∧
      k (Config.sendDraws s.draws).outcome (afterSend p (Config.sendDraws s.draws) (drawn s)) = .next t := by
  unfold radioSend at h
  split at h
  · rename_i hc; exact ⟨hc.1, hc.2, h⟩
  · cases h

/-- The state after `Transmit(p)` from transmitting mode, with the draws `d` (R161, R163). -/
def afterTransmit (p : Payload) (d : SendDraws) (s : State) : State :=
  setTxOk d.outcome (afterSend p d (drawn (setListening false s)))

/-- `Transmit(p)` from transmitting mode (R161): no RMODE. -/
theorem transmit_tx {s : State} (p : Payload) (k : State → Answer) (hc : s.radio.cfg = true) (hm : s.radio.mode = .tx) :
    transmit p s k = k (afterTransmit p (Config.sendDraws s.draws) s) := by
  simp [transmit, hm, radioSend, hc, afterTransmit]

/-- `Transmit(p)` from listening mode (R161): RMODE(TX) first. -/
theorem transmit_rx {s : State} (p : Payload) (k : State → Answer) (hc : s.radio.cfg = true) (hm : s.radio.mode = .rx) :
    transmit p s k = k (afterTransmit p (Config.sendDraws s.draws) (afterMode .tx s)) := by
  simp [transmit, hm, radioMode, radioSend, hc, afterTransmit, LinkMode.mode]

/-- Everything `Transmit(p)` can do. -/
theorem transmit_next {s t : State} {p : Payload} {k : State → Answer} (h : transmit p s k = .next t) :
    s.radio.cfg = true ∧
      ((s.radio.mode = .tx ∧ k (afterTransmit p (Config.sendDraws s.draws) s) = .next t) ∨
       (s.radio.mode = .rx ∧ k (afterTransmit p (Config.sendDraws s.draws) (afterMode .tx s)) = .next t)) := by
  unfold transmit at h
  dsimp only at h
  split at h
  · rename_i hm
    have h1 := radioMode_next h
    have h2 := radioSend_next h1.2
    exact ⟨h1.1, .inr ⟨hm, h2.2.2⟩⟩
  · have h2 := radioSend_next h
    exact ⟨h2.1, .inl ⟨h2.2.1, h2.2.2⟩⟩

/-! ### The host's accesses -/

/-- Everything an offer of a command can do (R70). -/
theorem offerCommand_cases (w : Word) (s : State) :
    (s.status.busy = true ∧ offerCommand w s = raiseErr .busy s) ∨
    (s.status.busy = false ∧ decode w = .error .illegal ∧ offerCommand w s = raiseErr .illegal s) ∨
    (s.status.busy = false ∧ decode w = .error .rsvd ∧ offerCommand w s = raiseErr .rsvd s) ∨
    (s.status.busy = false ∧ isCommand w = true ∧
      offerCommand w s =
        { s with
          cmd := w
          latch := some { word := w, a0 := s.arg0, a1 := s.arg1, a2 := s.arg2, a3 := s.arg3 }
          status := { s.status with busy := true, done := false } }) := by
  unfold offerCommand isCommand
  rcases hb : s.status.busy with _ | _
  · rcases hd : decode w with e | i
    · rcases e with _ | _ <;> simp
    · simp
  · simp

theorem hostRead_refused {width : Nat} {off : Offset} (s : State) (h : accessed width off = none) :
    hostRead width off s = refuseAccess { s with hostData := none } := by
  simp [hostRead, h]

theorem hostRead_mapped {width : Nat} {off : Offset} {r : HostReg} (s : State) (h : accessed width off = some r) :
    hostRead width off s = detect { s with hostData := some (regRead r s) } := by
  simp [hostRead, h]

theorem hostWrite_refused {width : Nat} {off : Offset} (v : Word) (s : State) (h : accessed width off = none) :
    hostWrite width off v s = refuseAccess s := by
  simp [hostWrite, h]

theorem hostWrite_mapped {width : Nat} {off : Offset} {r : HostReg} (v : Word) (s : State)
    (h : accessed width off = some r) : hostWrite width off v s = detect (regWrite r v s) := by
  simp [hostWrite, h]

/-- STATUS as the host reads it, bit by bit (R23): the fields from bit 0 up, then zeros. -/
theorem statusWord_bit (t : Status) (i : Nat) : (statusWord t).getLsbD i = (statusBits t).getD i false := by
  simp only [statusWord, BitVec.getLsbD_setWidth, BitVec.getLsbD_ofBoolListLE]
  by_cases h : i < 32
  · simp [h]
  · simp [h, statusBits, List.getD]
    rw [List.getElem?_eq_none] <;> simp
    omega

/-! ### The step -/

/-- Everything a step can do: wait with no turn left, or take the next turn. -/
theorem step_next {s t : State} (h : step s = .next t) :
    (s.inputs = [] ∧ t = s) ∨ ∃ u rest, s.inputs = u :: rest ∧ takeTurn u { s with inputs := rest } = .next t := by
  unfold step at h
  split at h
  · cases h; exact .inl ⟨‹_›, rfl⟩
  · exact .inr ⟨_, _, ‹_›, h⟩

/-- Everything the engine's turn can do (R72). -/
theorem engineTurn_next {s t : State} (h : engineTurn s = .next t) :
    (s.status.busy = false ∧ t = s) ∨
      (s.status.busy = true ∧ ∃ l i, s.latch = some l ∧ decode l.word = .ok i ∧ exec i s = .next t) := by
  unfold engineTurn at h
  split at h
  · rename_i hf
    cases h
    exact .inl ⟨(fetch_idle_iff s).1 hf, rfl⟩
  · rename_i i hf
    obtain ⟨hb, l, hl, hd⟩ := (fetch_command_iff s i).1 hf
    exact .inr ⟨hb, l, i, hl, hd, h⟩
  · cases h
  · cases h

end Sys2Proof.Machine
end

