-- ==== Sys2Proof/Laws/Exec.lean ====
section
/-! SUPPORT. What each command answers, in terms of the shared operations, under the conditions in which it goes on:
the lemmas to cite instead of unfolding a meaning. -/

namespace Sys2Proof.Machine

theorem exec_nop (s : State) : exec .nop s = .next (completed s) := rfl

theorem exec_clear (s : State) : exec .clear s = .next (completed { s with fb := clearPixels s.fb }) := rfl

theorem exec_pset {s : State} {l : Latch} (on : Bool) (h : s.latch = some l) :
    exec (.pset on) s = .next (completed { s with fb := setPix l.x0 l.y0 on s.fb }) :=
  withLatch_some _ h

theorem exec_pget {s : State} {l : Latch} (h : s.latch = some l) :
    exec .pget s = .next (completed { s with status := { s.status with pixel := getPix l.x0 l.y0 s.fb } }) :=
  withLatch_some _ h

theorem exec_line {s : State} {l : Latch} (on : Bool) (h : s.latch = some l) :
    exec (.line on) s = .next (completed { s with fb := setCells on (linePoints l.x0 l.y0 l.x1 l.y1) s.fb }) :=
  withLatch_some _ h

theorem exec_glyph {s : State} {l : Latch} (h : s.latch = some l) :
    exec .glyph s = .next (completed { s with fb := glyphAt s.params l.x0 l.y0 l.ch s.fb }) :=
  withLatch_some _ h

theorem exec_text {s : State} {l : Latch} (src : TextSource) (h : s.latch = some l) :
    exec (.text src) s = .next (completed { s with fb := drawText s.params l.y0 (textOf src s) l.x0 s.fb }) :=
  withLatch_some _ h

/-- What sending a list of commands writes: `dlog` alone, one transaction a command (R135, R137). -/
theorem foldl_busWrite (cs : List (List Byte)) (s : State) :
    cs.foldl (fun t c => busWrite (Config.cmdPrefix :: c) t) s =
      { s with dlog := s.dlog ++ cs.map fun c => { addr := Config.dispAddr, bytes := Config.cmdPrefix :: c } } := by
  induction cs generalizing s with
  | nil => simp
  | cons c cs ih => rw [List.foldl_cons, ih]; simp [busWrite]

theorem sendInitSeq_eq (s : State) :
    sendInitSeq s =
      { s with
        dlog := s.dlog ++ Config.initSeq.map fun c => { addr := Config.dispAddr, bytes := Config.cmdPrefix :: c } } :=
  foldl_busWrite _ s

theorem exec_dinit_cases (s : State) :
    (s.status.dispInit = true ∧ exec .dinit s = .next (failed .oneshot s)) ∨
    (s.status.dispInit = false ∧
      exec .dinit s =
        .next (completed { sendInitSeq s with status := { s.status with dispInit := true } })) := by
  cases h : s.status.dispInit
  · exact .inr ⟨rfl, by simp [exec, execDinit, h, complete]; rfl⟩
  · exact .inl ⟨rfl, by simp [exec, execDinit, h, failWith]⟩

theorem exec_push_cases (s : State) :
    (s.status.dispInit = true ∧ exec .push s = .next (completed (busWrite s.fb.toList s))) ∨
    (s.status.dispInit = false ∧ exec .push s = .next (failed .notInit s)) := by
  cases h : s.status.dispInit
  · exact .inr ⟨rfl, by simp [exec, execPush, h, failWith]⟩
  · exact .inl ⟨rfl, by simp [exec, execPush, h, complete]⟩

theorem exec_rinit_cases (s : State) :
    (s.status.radioInit = true ∧ exec .rinit s = .next (failed .oneshot s)) ∨
    (s.status.radioInit = false ∧
      exec .rinit s =
        .next (completed
          (recordInit s.radio.present (afterCfg { s with status := { s.status with radioInit := true } })))) := by
  cases h : s.status.radioInit
  · exact .inr ⟨rfl, by simp [exec, execRinit, h, complete]⟩
  · exact .inl ⟨rfl, by simp [exec, execRinit, h, failWith]⟩

/-- Everything LISTEN can answer as a next state (R153, R154). -/
theorem exec_listen_next {s t : State} (h : exec .listen s = .next t) :
    (∃ c ∈ [ErrorCode.notInit, .radioDown], t = failed c s) ∨
      (s.status.radioInit = true ∧ s.status.radioFail = false ∧ s.radio.cfg = true ∧
        t = completed (setListening true (afterMode .rx s))) := by
  rcases gated_cases s (fun s => radioMode .rx s fun s => complete (setListening true s)) with
    ⟨-, e⟩ | ⟨-, -, e⟩ | ⟨hi, hf, e⟩
  · exact .inl ⟨.notInit, by simp, by cases e.symm.trans h; rfl⟩
  · exact .inl ⟨.radioDown, by simp, by cases e.symm.trans h; rfl⟩
  · have := radioMode_next (e.symm.trans h)
    exact .inr ⟨hi, hf, this.1, by cases this.2; rfl⟩

/-- Everything UNLISTEN can answer as a next state (R153, R155). -/
theorem exec_unlisten_next {s t : State} (h : exec .unlisten s = .next t) :
    (∃ c ∈ [ErrorCode.notInit, .radioDown], t = failed c s) ∨
      (s.status.radioInit = true ∧ s.status.radioFail = false ∧ s.radio.cfg = true ∧
        t = completed (setListening false (afterMode .tx s))) := by
  rcases gated_cases s (fun s => radioMode .tx s fun s => complete (setListening false s)) with
    ⟨-, e⟩ | ⟨-, -, e⟩ | ⟨hi, hf, e⟩
  · exact .inl ⟨.notInit, by simp, by cases e.symm.trans h; rfl⟩
  · exact .inl ⟨.radioDown, by simp, by cases e.symm.trans h; rfl⟩
  · have := radioMode_next (e.symm.trans h)
    exact .inr ⟨hi, hf, this.1, by cases this.2; rfl⟩

/-- Everything POLL can answer as a next state (R153, R156). -/
theorem exec_poll_next {s t : State} (h : exec .poll s = .next t) :
    (∃ c ∈ [ErrorCode.notInit, .radioDown], t = failed c s) ∨
      (s.status.radioInit = true ∧ s.status.radioFail = false ∧ s.radio.cfg = true ∧
        t = completed (setEvents s.radio.fSent s.radio.fFailed s.radio.fReady (afterFlags s))) := by
  rcases gated_cases s (fun s => radioFlags s fun a b c s => complete (setEvents a b c s)) with
    ⟨-, e⟩ | ⟨-, -, e⟩ | ⟨hi, hf, e⟩
  · exact .inl ⟨.notInit, by simp, by cases e.symm.trans h; rfl⟩
  · exact .inl ⟨.radioDown, by simp, by cases e.symm.trans h; rfl⟩
  · have := radioFlags_next (e.symm.trans h)
    exact .inr ⟨hi, hf, this.1, by cases this.2; rfl⟩

/-- Everything RECV can answer as a next state (R153, R158, R159). -/
theorem exec_recv_next {s t : State} (h : exec .recv s = .next t) :
    (∃ c ∈ [ErrorCode.notInit, .radioDown], t = failed c s) ∨
      (s.status.radioInit = true ∧ s.status.radioFail = false ∧ s.radio.cfg = true ∧
        ∃ p u, (u = s ∨ u = drawn s) ∧ (∀ q r, s.radio.rxq = q :: r → p = q ∧ u = s) ∧
          t = completed { afterRead p u with msg := p }) := by
  rcases gated_cases s (fun s => radioRead s fun p s => complete { s with msg := p }) with
    ⟨-, e⟩ | ⟨-, -, e⟩ | ⟨hi, hf, e⟩
  · exact .inl ⟨.notInit, by simp, by cases e.symm.trans h; rfl⟩
  · exact .inl ⟨.radioDown, by simp, by cases e.symm.trans h; rfl⟩
  · obtain ⟨hc, p, u, hu, hq, hk⟩ := radioRead_next (e.symm.trans h)
    exact .inr ⟨hi, hf, hc, p, u, hu, hq, by cases hk; rfl⟩

/-- Everything XMIT can answer as a next state (R153, R162). -/
theorem exec_xmit_next {s t : State} (h : exec .xmit s = .next t) :
    (∃ c ∈ [ErrorCode.notInit, .radioDown], t = failed c s) ∨
      (s.status.radioInit = true ∧ s.status.radioFail = false ∧ s.radio.cfg = true ∧ ∃ d,
        ((s.radio.mode = .tx ∧ t = completed (afterTransmit s.txbuf d s)) ∨
         (s.radio.mode = .rx ∧ t = completed (afterTransmit s.txbuf d (afterMode .tx s))))) := by
  rcases gated_cases s (fun s => transmit s.txbuf s complete) with ⟨-, e⟩ | ⟨-, -, e⟩ | ⟨hi, hf, e⟩
  · exact .inl ⟨.notInit, by simp, by cases e.symm.trans h; rfl⟩
  · exact .inl ⟨.radioDown, by simp, by cases e.symm.trans h; rfl⟩
  · obtain ⟨hc, ⟨hm, hk⟩ | ⟨hm, hk⟩⟩ := transmit_next (e.symm.trans h)
    · exact .inr ⟨hi, hf, hc, _, .inl ⟨hm, by cases hk; rfl⟩⟩
    · exact .inr ⟨hi, hf, hc, _, .inr ⟨hm, by cases hk; rfl⟩⟩

/-- The state after a ping is answered, with the draws `d` (R166). -/
def afterAnswer (d : SendDraws) (s : State) : State :=
  completed (setListening true (afterMode .rx
    (afterTransmit pong d (setListening false (afterMode .tx (setPing true s))))))

/-- Answering a ping (R166): RMODE(TX), one RSEND of PONG, RMODE(RX). -/
theorem answerPing_configured {s : State} (h : s.radio.cfg = true) :
    answerPing s = .next (afterAnswer (Config.sendDraws s.draws) s) := by
  unfold answerPing
  rw [radioMode_configured _ _ (by simpa using h), transmit_tx _ _ (by simpa using h) (by simp [LinkMode.mode]),
    radioMode_configured _ _ (by simpa [afterTransmit] using h)]
  rfl

/-- EVENT with RADIO_INIT = 1, RADIO_FAIL = 0 and a configured transceiver (R166): the state after RFLAGS and the
snapshot. -/
def afterSnapshot (s : State) : State :=
  setPing false (setEvents s.radio.fSent s.radio.fFailed s.radio.fReady (afterFlags s))

/-- Everything EVENT can answer as a next state (R166, R167). -/
theorem exec_event_next {s t : State} (h : exec .event s = .next t) :
    (s.status.radioInit = false ∧ t = failed .notInit s) ∨
      (s.status.radioInit = true ∧ s.status.radioFail = true ∧
        t = completed (setPing false (setEvents false false false s))) ∨
      (s.status.radioInit = true ∧ s.status.radioFail = false ∧ s.radio.cfg = true ∧
        ((s.radio.fReady = false ∧ t = completed (afterSnapshot s)) ∨
         (s.radio.fReady = true ∧
          ∃ p u, (u = afterSnapshot s ∨ u = drawn (afterSnapshot s)) ∧
            (∀ q r, s.radio.rxq = q :: r → p = q ∧ u = afterSnapshot s) ∧
            ((isPing p = false ∧ t = completed { afterRead p u with msg := p }) ∨
             (isPing p = true ∧ ∃ d, t = afterAnswer d { afterRead p u with msg := p }))))) := by
  change execEvent s = _ at h
  unfold execEvent at h
  split at h
  · cases h; exact .inl ⟨‹_›, rfl⟩
  · rename_i hi
    rw [Bool.not_eq_false] at hi
    split at h
    · cases h; exact .inr (.inl ⟨hi, ‹_›, rfl⟩)
    · rename_i hf
      rw [Bool.not_eq_true] at hf
      obtain ⟨hc, hk⟩ := radioFlags_next h
      refine .inr (.inr ⟨hi, hf, hc, ?_⟩)
      dsimp only at hk
      split at hk
      · rename_i hr
        refine .inr ⟨hr, ?_⟩
        obtain ⟨-, p, u, hu, hq, hk⟩ := radioRead_next hk
        refine ⟨p, u, hu, hq, ?_⟩
        split at hk
        · rename_i hp
          have hcu : u.radio.cfg = true := by rcases hu with rfl | rfl <;> simpa using hc
          rw [answerPing_configured (by simpa using hcu)] at hk
          exact .inr ⟨hp, _, by cases hk; rfl⟩
        · rename_i hp
          exact .inl ⟨by simpa using hp, by cases hk; rfl⟩
      · rename_i hr
        exact .inl ⟨by simpa using hr, by cases hk; rfl⟩

theorem exec_armwake (level : Bool) (s : State) :
    exec (.armwake level) s =
      .next (completed { s with
        status := { s.status with wakeLevel := level, wakePending := false, wakeArmed := true }
        irqPrev := irqLevel s.radio }) := rfl

end Sys2Proof.Machine
end

