-- ==== Sys2Proof/Machine/HostProgram.lean ====
section
/-! DEFINITION. The host side of the spec: what a line of a listing expands to (30_encoding.md R91 to R93), how a host
performs it one access at a time, and the listings of the reference event loop (60_exceptions.md R200 to R206), which
Machine/HostLoop.lean runs. The host's program is outside the block (10_state.md R20): nothing in State or step uses
this file (log 26). -/

namespace Sys2Proof.Machine

/-- A primitive of a host listing. -/
inductive HostOp where
  /-- `SW off, v` (R91). -/
  | sw (off : Offset) (v : Word)
  /-- `LW off` (R91). -/
  | lw (off : Offset)
  /-- `WAITIDLE` (R92): the loop on STATUS bit 0. -/
  | waitIdle
  /-- `WAITWAKE` (R93): the loop on STATUS bit 13. -/
  | waitWake
  /-- `if STATUS.RADIO_FAIL = 1` (60_exceptions.md R203): reads STATUS and, where bit 4 is 0, skips the next `n`. -/
  | skipUnlessFail (n : Nat)
  deriving DecidableEq, Repr

/-- Byte `k` of a string padded with 0x00 (R93). -/
def paddedByte (s : List Byte) (k : Nat) : Byte := s.getD k 0#8

/-- Word `i` of a padded string, `{b[4i+3], b[4i+2], b[4i+1], b[4i]}` (R93). -/
def paddedWord (s : List Byte) (i : Nat) : Word :=
  paddedByte s (4 * i + 3) ++ paddedByte s (4 * i + 2) ++ paddedByte s (4 * i + 1) ++ paddedByte s (4 * i)

/-- The offsets of ARG0 to ARG3 (R92). -/
def argOffsets : List Offset := [0x00C#12, 0x010#12, 0x014#12, 0x018#12]

/-- The expansion of a command's line (R92): its ARG writes as low 16 bits, the CMD write, WAITIDLE. -/
def expandCommand (i : Instr) (ops : List Int) : List HostOp :=
  ((argOffsets.zip ops).map fun a => .sw a.1 ((BitVec.ofInt 16 a.2).setWidth 32)) ++ [.sw 0x000#12 (encode i), .waitIdle]

/-- The expansion of a line (R92, R93; PRINT: 60_exceptions.md R206, line n is y = 8(n - 1)). -/
def AsmLine.expand : AsmLine → List HostOp
  | .command i ops => expandCommand i ops
  | .loadText s => (List.range 8).map fun i => .sw (BitVec.ofNat 12 (0x100 + 4 * i)) (paddedWord s i)
  | .loadTx s => (List.range 6).map fun i => .sw (BitVec.ofNat 12 (0x160 + 4 * i)) (paddedWord s i)
  | .print n src => expandCommand (.text src) [0, 8 * ((n : Int) - 1)]
  | .clrErr => [.sw 0x008#12 0#32]
  | .ackWake => [.sw 0x004#12 0x00002000#32]
  | .waitWake => [.waitWake]

/-- The turn one primitive gives the block: each performs exactly one access. -/
def HostOp.turn : HostOp → Turn
  | .sw off v => .hostWrite 32 off v
  | .lw off => .hostRead 32 off
  | .waitIdle => .hostRead 32 0x004#12
  | .waitWake => .hostRead 32 0x004#12
  | .skipUnlessFail _ => .hostRead 32 0x004#12

/-- What is left of a listing after its first primitive's access returned `w`. -/
def HostOp.remaining (op : HostOp) (w : Word) (rest : List HostOp) : List HostOp :=
  match op with
  | .sw _ _ => rest
  | .lw _ => rest
  | .waitIdle => if w.getLsbD 0 then .waitIdle :: rest else rest
  | .waitWake => if w.getLsbD 13 then rest else .waitWake :: rest
  | .skipUnlessFail n => if w.getLsbD 4 then rest else rest.drop n

/-- One host turn of a listing on the machine (R91 to R93): the access, and what is left. -/
def hostTurn (prog : List HostOp) (s : State) : List HostOp × Answer :=
  match prog with
  | [] => ([], .next s)
  | op :: rest =>
    match takeTurn op.turn s with
    | .next t => (op.remaining (t.hostData.getD 0#32) rest, .next t)
    | .fault f => (op :: rest, .fault f)
    | .refused r => (op :: rest, .refused r)

/-- The state of the reference event loop (R200); `startup` comes before the first SLEEPING. -/
inductive LoopState where
  | startup
  | sleeping
  | waking
  | handlingEvent
  | rendering
  deriving DecidableEq, Repr

/-- The state the loop enters when a state's listing has been performed: cyclic, with no terminal state (R200, R202).
SLEEPING's listing ends only when WAITWAKE reads WAKE_PENDING = 1 (R201); `Node.goOn` takes the transition. -/
def LoopState.successor : LoopState → LoopState
  | .startup => .sleeping
  | .sleeping => .waking
  | .waking => .handlingEvent
  | .handlingEvent => .rendering
  | .rendering => .sleeping

/-- "Received message: " (R203). -/
def receivedLabel : List Byte :=
  [0x52#8, 0x65#8, 0x63#8, 0x65#8, 0x69#8, 0x76#8, 0x65#8, 0x64#8, 0x20#8, 0x6D#8, 0x65#8, 0x73#8, 0x73#8, 0x61#8,
   0x67#8, 0x65#8, 0x3A#8, 0x20#8]

/-- "Radio not responding!" (R203). -/
def radioWarning : List Byte :=
  [0x52#8, 0x61#8, 0x64#8, 0x69#8, 0x6F#8, 0x20#8, 0x6E#8, 0x6F#8, 0x74#8, 0x20#8, 0x72#8, 0x65#8, 0x73#8, 0x70#8,
   0x6F#8, 0x6E#8, 0x64#8, 0x69#8, 0x6E#8, 0x67#8, 0x21#8]

/-- A listing's expansion. -/
def expandAll (lines : List AsmLine) : List HostOp := lines.flatMap AsmLine.expand

/-- The warning line of Render (R203), run only when RADIO_FAIL = 1. -/
def warningLine : List HostOp := expandAll [.loadText radioWarning, .print 4 .textRam]

/-- Render (R203), with the parameters' pitch for the message column. -/
def renderProgram (p : Params) (header : List Byte) : List HostOp :=
  expandAll
    [.command .clear [],
     .loadText header, .print 1 .textRam,
     .loadText receivedLabel, .print 2 .textRam,
     .command (.text .msg) [18 * (pitch p : Int), 8]] ++
  .skipUnlessFail warningLine.length :: warningLine ++
  expandAll [.command .push []]

/-- The reference host program's listing for each state of the loop (R200). -/
def loopProgram (p : Params) (header ready : List Byte) : LoopState → List HostOp
  | .startup =>
    expandAll
      [.command .dinit [], .command .rinit [], .command .clear [],
       .loadText ready, .print 1 .textRam, .command .push []]
  | .sleeping => expandAll [.command (.armwake false) [], .waitWake]
  | .waking => expandAll [.ackWake]
  | .handlingEvent => expandAll [.command .event []]
  | .rendering => renderProgram p header

/-- The listing of the build: HEADER_TEXT and READY_TEXT are its OPEN parameters (00_scope.md R6). -/
def referenceProgram (p : Params) : LoopState → List HostOp :=
  loopProgram p Config.headerText Config.readyText

/-- The host address of an offset of the window (20_memory.md R60). -/
def windowAddress (off : Offset) : Word := Config.nsbBase + off.setWidth 32

end Sys2Proof.Machine
end

