-- ==== Sys2Proof/Machine/HostLoop.lean ====
section
/-! DEFINITION. The reference event loop at run on the block (60_exceptions.md R200 to R205). The host performs its
listing one access a turn and goes from state to state; the engine and the radio take turns of their own. The loop is
the host's (10_state.md R20): nothing in State or step uses this file (log 26). -/

namespace Sys2Proof.Machine

/-- HEADER_TEXT and READY_TEXT of the host's build (00_scope.md R6). -/
structure HostTexts where
  header : List Byte
  ready : List Byte
  deriving DecidableEq, Repr

/-- The build's own texts, OPEN (log 17). -/
def HostTexts.build : HostTexts where
  header := Config.headerText
  ready := Config.readyText

/-- The host with its block: the loop's state (R200), the primitives that state's listing has left, and the machine. -/
structure Node where
  loop : LoopState
  rest : List HostOp
  block : State
  deriving DecidableEq, Repr

/-- One turn in a run of the loop: the host's next access, the engine, or one of the radio's own steps (20_memory.md
R72, 42_radio_framer.md R172 to R174). -/
inductive NodeTurn where
  | host
  | engine
  | arrival (p : Payload)
  | lateCompletion (sent : Bool)
  | pinNoise (level : Bool)
  deriving DecidableEq, Repr

/-- The node as its loop enters a state: that state's whole listing is still to be performed (R200). -/
def Node.enter (h : HostTexts) (l : LoopState) (s : State) : Node where
  loop := l
  rest := loopProgram s.params h.header h.ready l
  block := s

/-- The node before the startup sequence, which the host runs once (R200). -/
def Node.start (h : HostTexts) (s : State) : Node := Node.enter h .startup s

/-- The node of this build at power-on (70_reset_and_hazards.md R221). -/
def Node.powerOn : Node := Node.start HostTexts.build State.reset

/-- The node after an access that leaves `rest` of the listing. A state is left exactly when its listing has been
performed, for its successor, and the loop has no end (`goto Sleep`, R200, R202). SLEEPING's listing ends with WAITWAKE,
whose primitive is used up only by a read of STATUS with WAKE_PENDING = 1 (R201). -/
def Node.goOn (h : HostTexts) (l : LoopState) (rest : List HostOp) (s : State) : Node :=
  match rest with
  | [] => Node.enter h l.successor s
  | op :: ops => { loop := l, rest := op :: ops, block := s }

/-- The host's turn: the listing's next access, then on (R91 to R93, R200). -/
def Node.hostMoves (h : HostTexts) (n : Node) : Host.Outcome Node Fault Refusal :=
  match hostTurn n.rest n.block with
  | (rest, .next t) => .next (Node.goOn h n.loop rest t)
  | (_, .fault f) => .fault f
  | (_, .refused r) => .refused r

/-- A turn of the engine or the radio: the host stays where it is. -/
def Node.othersMove (u : Turn) (n : Node) : Host.Outcome Node Fault Refusal :=
  match takeTurn u n.block with
  | .next t => .next { n with block := t }
  | .fault f => .fault f
  | .refused r => .refused r

/-- The block's turn that a turn of the engine or the radio is; the host's own depends on its listing. -/
def NodeTurn.blockTurn : NodeTurn → Option Turn
  | .host => none
  | .engine => some .engine
  | .arrival p => some (.arrival p)
  | .lateCompletion sent => some (.lateCompletion sent)
  | .pinNoise level => some (.pinNoise level)

/-- One turn of the node. -/
def Node.turn (h : HostTexts) (u : NodeTurn) (n : Node) : Host.Outcome Node Fault Refusal :=
  match u.blockTurn with
  | none => n.hostMoves h
  | some v => n.othersMove v

/-- A run of the loop under a list of turns; any order of turns is a run, since no fairness is assumed (R225; log 6). -/
def Node.run (h : HostTexts) : List NodeTurn → Node → Host.Outcome Node Fault Refusal
  | [], n => .next n
  | u :: us, n =>
    match n.turn h u with
    | .next m => Node.run h us m
    | .fault f => .fault f
    | .refused r => .refused r

/-! ### The terms of the loop's end-to-end properties (R205) -/

/-- The string TEXT draws after LOADTEXT of `s` (30_encoding.md R93). -/
def loadedText (s : List Byte) : List Byte := textBytes (bufOf Config.textLen (paddedByte s))

/-- FB after Render's CLEAR and TEXT commands (R203), with MSG `msg` and RADIO_FAIL `fail`. -/
def renderedFrame (p : Params) (header : List Byte) (msg : Payload) (fail : Bool) (f : Frame) : Frame :=
  let f := drawText p 0 (loadedText header) 0 (clearPixels f)
  let f := drawText p 8 (loadedText receivedLabel) 0 f
  let f := drawText p 8 (textBytes msg) (18 * (pitch p : Int)) f
  if fail then drawText p 24 (loadedText radioWarning) 0 f else f

/-- The bytes of page `k` of a whole frame. -/
def pageOf (bytes : List Byte) (k : Nat) : List Byte := (bytes.drop (1 + Config.width * k)).take Config.width

/-- The frames that PUSH has sent, in order (41_display_transport.md R140). -/
def framesSent (log : List BusWrite) : List (List Byte) :=
  (log.map BusWrite.bytes).filter fun b => b.length == Config.fbLen

/-- The payloads of the RSENDs in `rlog`, in order (42_radio_framer.md R150). -/
def payloadsSent (log : List RadioEntry) : List Payload :=
  log.filterMap fun e => match e with
    | .rsend p _ => some p
    | _ => none

/-- Page `n - 1` of a frame is what Render draws there: the frame carries line `n` (R205, R206). -/
def CarriesLine (p : Params) (h : HostTexts) (msg : Payload) (fail : Bool) (n : Nat) (bytes : List Byte) : Prop :=
  ∀ f : Frame, pageOf bytes (n - 1) = pageOf (renderedFrame p h.header msg fail f).toList (n - 1)

/-- "!PING" and 0x00 to the payload's end (R205). -/
def pingPayload : Payload := bufOf Config.payloadSize (paddedByte [0x21#8, 0x50#8, 0x49#8, 0x4E#8, 0x47#8])

/-- R205's first property, as a proposition about runs. The first wake is caused by a ping: until it arrives only the
host and the engine have moved, and it finds the loop asleep with the detector armed. While the first Render runs
(READY's frame alone has been sent), MSG holds the ping and PONG alone has been transmitted; Render's frame carries the
message on line 2 and nothing on page 3. A derived rule: named here, not claimed (log 26). -/
def FirstPingIsAnswered : Prop :=
  ∀ (h : HostTexts) (s : State) (before after : List NodeTurn) (n m : Node),
    s = State.reset → s.radio.present = true → (∀ u ∈ before, u = .host ∨ u = .engine) →
    Node.run h before (Node.start h s) = .next n → n.loop = .sleeping → n.block.status.wakeArmed = true →
    Node.run h (.arrival pingPayload :: after) n = .next m →
    (m.loop = .rendering → (framesSent m.block.dlog).length = 1 →
      m.block.msg = pingPayload ∧ payloadsSent m.block.rlog = [pong]) ∧
    ∀ frame, (framesSent m.block.dlog)[1]? = some frame →
      CarriesLine s.params h pingPayload false 2 frame ∧ pageOf frame 3 = List.replicate Config.width 0x00#8

/-- R205's second property, as a proposition about runs: without a transceiver nothing is ever transmitted, and every
frame after READY's carries the warning on line 4. A derived rule: named here, not claimed as a whole (log 26); its
first half is `Node.run_without_transceiver_sends_nothing`. -/
def DeadRadioIsShown : Prop :=
  ∀ (h : HostTexts) (s : State) (turns : List NodeTurn) (m : Node),
    s = State.reset → s.radio.present = false → Node.run h turns (Node.start h s) = .next m →
    payloadsSent m.block.rlog = [] ∧
    ∀ frame ∈ (framesSent m.block.dlog).drop 1, ∀ msg : Payload, CarriesLine s.params h msg true 4 frame

end Sys2Proof.Machine
end

