-- ==== Sys2Proof/Laws/HostLoop.lean ====
section
/-! SUPPORT. What a turn of the node can do (60_exceptions.md R200 to R202), and what follows of every run of the
reference loop: it only goes on to a state's successor, it wakes only on WAKE_PENDING, and without a transceiver it
transmits nothing (R205). -/

namespace Sys2Proof.Machine

/-! ### One turn -/

/-- The block's part of a node's turn is what `step` does with that turn. -/
theorem step_takeTurn (u : Turn) (rest : List Turn) (s : State) :
    step { s with inputs := u :: rest } = takeTurn u { s with inputs := rest } := rfl

/-- Everything a host turn of a listing can do (R91 to R93): one access, and what is left. -/
theorem hostTurn_next {op : HostOp} {ops rest : List HostOp} {s t : State}
    (h : hostTurn (op :: ops) s = (rest, .next t)) :
    takeTurn op.turn s = .next t ∧ rest = op.remaining (t.hostData.getD 0#32) ops := by
  unfold hostTurn at h
  dsimp only at h
  split at h
  · rename_i u hu
    cases h
    exact ⟨hu, rfl⟩
  · cases h
  · cases h

/-- Everything the host's turn of a node can do. -/
theorem Node.hostMoves_next {h : HostTexts} {n m : Node} (e : n.hostMoves h = .next m) :
    ∃ rest t, hostTurn n.rest n.block = (rest, .next t) ∧ m = Node.goOn h n.loop rest t := by
  unfold Node.hostMoves at e
  split at e
  · cases e; exact ⟨_, _, ‹_›, rfl⟩
  · cases e
  · cases e

/-- Everything a turn of another agent can do: the block's turn, and the host stays where it is. -/
theorem Node.othersMove_next {u : Turn} {n m : Node} (e : n.othersMove u = .next m) :
    ∃ t, takeTurn u n.block = .next t ∧ m = { n with block := t } := by
  unfold Node.othersMove at e
  split at e
  · cases e; exact ⟨_, ‹_›, rfl⟩
  · cases e
  · cases e

/-- Everything a turn of the node can do: the host's, or one of the engine or the radio. -/
theorem Node.turn_next {h : HostTexts} {u : NodeTurn} {n m : Node} (e : n.turn h u = .next m) :
    (u = .host ∧ ∃ rest t, hostTurn n.rest n.block = (rest, .next t) ∧ m = Node.goOn h n.loop rest t) ∨
      ∃ v t, u.blockTurn = some v ∧ takeTurn v n.block = .next t ∧ m = { n with block := t } := by
  unfold Node.turn at e
  split at e
  · rename_i hu
    refine .inl ⟨?_, Node.hostMoves_next e⟩
    cases u with
    | host => rfl
    | engine => cases hu
    | arrival p => cases hu
    | lateCompletion sent => cases hu
    | pinNoise level => cases hu
  · exact .inr ⟨_, (Node.othersMove_next e).imp fun _ ht => ⟨‹_›, ht⟩⟩

@[simp] theorem Node.enter_loop (h : HostTexts) (l : LoopState) (s : State) : (Node.enter h l s).loop = l := rfl

@[simp] theorem Node.enter_block (h : HostTexts) (l : LoopState) (s : State) : (Node.enter h l s).block = s := rfl

@[simp] theorem Node.enter_rest (h : HostTexts) (l : LoopState) (s : State) :
    (Node.enter h l s).rest = loopProgram s.params h.header h.ready l := rfl

@[simp] theorem Node.goOn_block (h : HostTexts) (l : LoopState) (rest : List HostOp) (s : State) :
    (Node.goOn h l rest s).block = s := by cases rest <;> rfl

/-- A state is left exactly when nothing of its listing is left, for its successor. -/
theorem Node.goOn_loop (h : HostTexts) (l : LoopState) (rest : List HostOp) (s : State) :
    (Node.goOn h l rest s).loop = if rest = [] then l.successor else l := by cases rest <;> rfl

/-- A property that every turn keeps holds at the end of every run. -/
theorem Node.run_induction {h : HostTexts} {P : Node → Prop} (keep : ∀ u n m, n.turn h u = .next m → P n → P m) :
    ∀ (us : List NodeTurn) (n m : Node), Node.run h us n = .next m → P n → P m := by
  intro us
  induction us with
  | nil => intro n m e hn; cases e; exact hn
  | cons u us ih =>
    intro n m e hn
    unfold Node.run at e
    split at e
    · exact ih _ _ e (keep _ _ _ ‹_› hn)
    · cases e
    · cases e

/-! ### The loop's states (R200 to R202) -/

/-- What is left of a listing is a part of it that stands at its end. -/
theorem HostOp.remaining_suffix (op : HostOp) (w : Word) (ops : List HostOp) : op.remaining w ops <:+ op :: ops := by
  have hs : ops <:+ op :: ops := List.suffix_cons op ops
  cases op with
  | sw off v => exact hs
  | lw off => exact hs
  | waitIdle => simp only [HostOp.remaining]; split; exacts [List.suffix_refl _, hs]
  | waitWake => simp only [HostOp.remaining]; split; exacts [hs, List.suffix_refl _]
  | skipUnlessFail n => simp only [HostOp.remaining]; split; exacts [hs, (List.drop_suffix n ops).trans hs]

/-- No state's listing is empty. -/
theorem loopProgram_ne_nil (p : Params) (header ready : List Byte) (l : LoopState) : loopProgram p header ready l ≠ [] := by
  cases l <;> exact List.cons_ne_nil _ _

/-- The host has something of its state's listing still to perform. -/
def Node.OnListing (h : HostTexts) (n : Node) : Prop :=
  n.rest ≠ [] ∧ ∃ p, n.rest <:+ loopProgram p h.header h.ready n.loop

theorem Node.onListing_enter (h : HostTexts) (l : LoopState) (s : State) : (Node.enter h l s).OnListing h :=
  ⟨loopProgram_ne_nil _ _ _ _, s.params, List.suffix_refl _⟩

theorem Node.turn_onListing {h : HostTexts} (u : NodeTurn) (n m : Node) (e : n.turn h u = .next m)
    (hn : n.OnListing h) : m.OnListing h := by
  rcases Node.turn_next e with ⟨-, rest, t, ht, rfl⟩ | ⟨v, t, -, -, rfl⟩
  · obtain ⟨hne, p, hp⟩ := hn
    obtain ⟨op, ops, hr⟩ := List.exists_cons_of_ne_nil hne
    rw [hr] at ht hp
    obtain ⟨-, rfl⟩ := hostTurn_next ht
    cases hq : op.remaining (t.hostData.getD 0#32) ops with
    | nil => exact Node.onListing_enter h _ t
    | cons op' ops' =>
      have hx := HostOp.remaining_suffix op (t.hostData.getD 0#32) ops
      rw [hq] at hx
      exact ⟨List.cons_ne_nil _ _, p, hx.trans hp⟩
  · exact hn

/-- In every run from the start the host is on its state's listing: the loop has no terminal state (R200). -/
theorem Node.run_onListing {h : HostTexts} {s : State} {us : List NodeTurn} {m : Node}
    (e : Node.run h us (Node.start h s) = .next m) : m.OnListing h :=
  Node.run_induction Node.turn_onListing us _ m e (Node.onListing_enter h _ s)

/-- A turn leaves the loop's state, or goes on to its successor (R200, R202). -/
theorem Node.turn_loop {h : HostTexts} {u : NodeTurn} {n m : Node} (e : n.turn h u = .next m) :
    m.loop = n.loop ∨ (u = .host ∧ m.loop = n.loop.successor) := by
  rcases Node.turn_next e with ⟨hu, rest, t, -, rfl⟩ | ⟨v, t, -, -, rfl⟩
  · rw [Node.goOn_loop]
    split
    · exact .inr ⟨hu, rfl⟩
    · exact .inl rfl
  · exact .inl rfl

/-- A host read of STATUS returns its word and leaves STATUS as the detector then leaves it. -/
theorem takeTurn_readStatus (s : State) :
    takeTurn (.hostRead 32 0x004#12) s = .next (detect { s with hostData := some (statusWord s.status) }) := rfl

/-- WAITWAKE's primitive is used up exactly by a read of STATUS with WAKE_PENDING = 1 (R93, R201). -/
theorem hostTurn_waitWake (ops : List HostOp) (s : State) :
    hostTurn (.waitWake :: ops) s =
      (if s.status.wakePending then ops else .waitWake :: ops,
        .next (detect { s with hostData := some (statusWord s.status) })) := by
  have hb : (statusWord s.status).getLsbD 13 = s.status.wakePending := by rw [statusWord_bit]; rfl
  simp only [hostTurn, HostOp.turn, takeTurn_readStatus, HostOp.remaining, detect_hostData, Option.getD_some, hb]

/-- The loop leaves SLEEPING only for WAKING, and only when WAKE_PENDING = 1 (R201). -/
theorem Node.sleeping_left_only_on_wake {h : HostTexts} {u : NodeTurn} {n m : Node} (hn : n.OnListing h)
    (hs : n.loop = .sleeping) (e : n.turn h u = .next m) (hm : m.loop ≠ .sleeping) :
    u = .host ∧ n.block.status.wakePending = true ∧ m.loop = .waking := by
  rcases Node.turn_next e with ⟨hu, rest, t, ht, rfl⟩ | ⟨v, t, -, -, rfl⟩
  · rw [Node.goOn_loop, hs] at hm ⊢
    have hr : rest = [] := by by_contra hr; rw [if_neg hr] at hm; exact hm rfl
    refine ⟨hu, ?_, by rw [if_pos hr]; rfl⟩
    obtain ⟨hne, p, hp⟩ := hn
    rw [hs, show loopProgram p h.header h.ready .sleeping =
      [.sw 0x000#12 (encode (.armwake false)), .waitIdle, .waitWake] from rfl] at hp
    simp only [List.suffix_cons_iff, List.suffix_nil] at hp
    rcases hp with hq | hq | hq | hq
    · rw [hq] at ht
      have := (hostTurn_next ht).2
      rw [hr] at this
      cases this
    · rw [hq] at ht
      have := (hostTurn_next ht).2
      rw [hr] at this
      simp only [HostOp.remaining] at this
      split at this <;> cases this
    · rw [hq, hostTurn_waitWake] at ht
      have := congrArg Prod.fst ht
      rw [hr] at this
      dsimp only at this
      split at this
      · assumption
      · cases this
    · exact absurd hq hne
  · exact absurd hs hm

/-! ### Without a transceiver (R205, second property) -/

/-- No transceiver, hence none configured, and no transmission in the log. -/
def Silent (s : State) : Prop :=
  s.radio.present = false ∧ s.radio.cfg = false ∧ payloadsSent s.rlog = []

theorem Silent.of_same {s t : State} (hs : Silent s) (hr : t.radio = s.radio) (hl : t.rlog = s.rlog) : Silent t :=
  ⟨hr ▸ hs.1, hr ▸ hs.2.1, hl ▸ hs.2.2⟩

/-- Every command keeps a silent state silent: one that needs a configured transceiver does not get as far. -/
theorem exec_silent {s t : State} {i : Instr} (e : exec i s = .next t) (hs : Silent s) : Silent t := by
  have nope : s.radio.cfg ≠ true := by rw [hs.2.1]; exact Bool.false_ne_true
  have gated {u : State} {c : ErrorCode} (hu : u = failed c s) : Silent u := hu ▸ hs.of_same rfl rfl
  have drew {f : Frame} (hu : exec i s = .next (completed { s with fb := f })) : Silent t :=
    Host.Outcome.next.inj (hu.symm.trans e) ▸ hs.of_same rfl rfl
  cases i with
  | nop => exact drew (f := s.fb) rfl
  | clear => exact drew (exec_clear s)
  | pset on => obtain ⟨l, hl, -⟩ := withLatch_next e; exact drew (exec_pset on hl)
  | pget =>
    obtain ⟨l, hl, -⟩ := withLatch_next e
    rw [exec_pget hl] at e
    exact Host.Outcome.next.inj e ▸ hs.of_same rfl rfl
  | line on => obtain ⟨l, hl, -⟩ := withLatch_next e; exact drew (exec_line on hl)
  | glyph => obtain ⟨l, hl, -⟩ := withLatch_next e; exact drew (exec_glyph hl)
  | text src => obtain ⟨l, hl, -⟩ := withLatch_next e; exact drew (exec_text src hl)
  | dinit =>
    rcases exec_dinit_cases s with ⟨-, h⟩ | ⟨-, h⟩
    · cases h.symm.trans e; exact hs.of_same rfl rfl
    · rw [sendInitSeq_eq] at h
      exact Host.Outcome.next.inj (h.symm.trans e) ▸ hs.of_same rfl rfl
  | push =>
    rcases exec_push_cases s with ⟨-, h⟩ | ⟨-, h⟩
    · cases h.symm.trans e; exact hs.of_same rfl rfl
    · cases h.symm.trans e; exact hs.of_same rfl rfl
  | rinit =>
    rcases exec_rinit_cases s with ⟨-, h⟩ | ⟨-, h⟩
    · cases h.symm.trans e; exact hs.of_same rfl rfl
    · cases h.symm.trans e
      have hr : s.radio.configured = s.radio := by simp [Radio.configured, hs.1]
      refine ⟨?_, ?_, ?_⟩
      · simpa [hr] using hs.1
      · simpa [hr] using hs.2.1
      · simpa [payloadsSent] using hs.2.2
  | listen =>
    rcases exec_listen_next e with ⟨c, -, h⟩ | ⟨-, -, h, -⟩
    · exact gated h
    · exact absurd h nope
  | unlisten =>
    rcases exec_unlisten_next e with ⟨c, -, h⟩ | ⟨-, -, h, -⟩
    · exact gated h
    · exact absurd h nope
  | poll =>
    rcases exec_poll_next e with ⟨c, -, h⟩ | ⟨-, -, h, -⟩
    · exact gated h
    · exact absurd h nope
  | recv =>
    rcases exec_recv_next e with ⟨c, -, h⟩ | ⟨-, -, h, -⟩
    · exact gated h
    · exact absurd h nope
  | xmit =>
    rcases exec_xmit_next e with ⟨c, -, h⟩ | ⟨-, -, h, -⟩
    · exact gated h
    · exact absurd h nope
  | event =>
    rcases exec_event_next e with ⟨-, h⟩ | ⟨-, -, rfl⟩ | ⟨-, -, h, -⟩
    · exact gated h
    · exact hs.of_same rfl rfl
    · exact absurd h nope
  | armwake level => cases e; exact hs.of_same rfl rfl

/-- A host write leaves RADIO and the radio log as they were. -/
theorem hostWrite_radio (width : Nat) (off : Offset) (v : Word) (s : State) :
    (hostWrite width off v s).radio = s.radio ∧ (hostWrite width off v s).rlog = s.rlog := by
  cases hr : accessed width off with
  | none => rw [hostWrite_refused v s hr]; exact ⟨rfl, rfl⟩
  | some r =>
    rw [hostWrite_mapped v s hr, detect_radio, detect_rlog]
    cases r with
    | cmd => rcases offerCommand_cases v s with ⟨-, h⟩ | ⟨-, -, h⟩ | ⟨-, -, h⟩ | ⟨-, -, h⟩ <;> simp [regWrite, h]
    | text j => simp only [regWrite]; split <;> exact ⟨rfl, rfl⟩
    | txbuf j => simp only [regWrite]; split <;> exact ⟨rfl, rfl⟩
    | status => exact ⟨rfl, rfl⟩
    | err => exact ⟨rfl, rfl⟩
    | arg0 => exact ⟨rfl, rfl⟩
    | arg1 => exact ⟨rfl, rfl⟩
    | arg2 => exact ⟨rfl, rfl⟩
    | arg3 => exact ⟨rfl, rfl⟩
    | msg j => exact ⟨rfl, rfl⟩
    | fb j => exact ⟨rfl, rfl⟩

theorem hostRead_radio (width : Nat) (off : Offset) (s : State) :
    (hostRead width off s).radio = s.radio ∧ (hostRead width off s).rlog = s.rlog := by
  cases hr : accessed width off with
  | none => rw [hostRead_refused s hr]; exact ⟨rfl, rfl⟩
  | some r => rw [hostRead_mapped s hr]; exact ⟨rfl, rfl⟩

/-- Every turn of every agent, a block reset too, keeps a silent state silent. -/
theorem takeTurn_silent {u : Turn} {s t : State} (e : takeTurn u s = .next t) (hs : Silent s) : Silent t := by
  cases u with
  | hostRead width off => cases e; exact hs.of_same (hostRead_radio _ _ s).1 (hostRead_radio _ _ s).2
  | hostWrite width off v => cases e; exact hs.of_same (hostWrite_radio _ _ v s).1 (hostWrite_radio _ _ v s).2
  | engine =>
    rcases engineTurn_next e with ⟨-, rfl⟩ | ⟨-, l, i, -, -, h⟩
    · exact hs
    · exact exec_silent h hs
  | arrival p =>
    cases e
    have : ¬(s.radio.present = true ∧ s.radio.cfg = true ∧ s.radio.mode = .rx) := by simp [hs.1]
    simpa only [arrivalTurn, if_neg this] using hs
  | lateCompletion sent =>
    cases e
    simp only [lateTurn]
    split
    · exact ⟨hs.1, hs.2.1, hs.2.2⟩
    · exact hs
  | pinNoise level =>
    cases e
    simp only [pinTurn]
    split
    · exact hs
    · exact ⟨hs.1, hs.2.1, hs.2.2⟩
  | blockReset => cases e; exact hs.of_same rfl rfl

/-- R205, the second property's claim on the radio: in every run of the reference loop from a power-on without a
transceiver, whatever wakes occur, `rlog` holds no RSEND. -/
theorem Node.run_without_transceiver_sends_nothing {h : HostTexts} {us : List NodeTurn} {m : Node}
    (absent : State.reset.radio.present = false) (e : Node.run h us (Node.start h State.reset) = .next m) :
    payloadsSent m.block.rlog = [] := by
  refine (Node.run_induction (P := fun n => Silent n.block) ?_ us _ m e ⟨absent, rfl, rfl⟩).2.2
  intro u n m e hn
  rcases Node.turn_next e with ⟨-, rest, t, ht, rfl⟩ | ⟨v, t, -, ht, rfl⟩
  · rw [Node.goOn_block]
    cases hr : n.rest with
    | nil => rw [hr] at ht; cases ht; exact hn
    | cons op ops => rw [hr] at ht; exact takeTurn_silent (hostTurn_next ht).1 hn
  · exact takeTurn_silent ht hn

end Sys2Proof.Machine
end

