-- ==== Sys2Proof/Laws/PerInstr.lean ====
section
/-! SUPPORT. A family of laws about each command's word, one lemma for each constructor: its OP is in the table of
30_encoding.md R86 and its bits 31:10 are 0 (R85). -/

namespace Sys2Proof.Laws.CommandWord

/-- The opcodes of R86. -/
def opcodes : List Nat :=
  [0x00, 0x10, 0x11, 0x12, 0x13, 0x14, 0x15, 0x20, 0x21, 0x30, 0x31, 0x32, 0x33, 0x34, 0x35, 0x36, 0x40]

/-- The word of a command has an OP of the table and 0 in bits 31:10. -/
def Statement (i : Instr) : Prop := opField (encode i) ∈ opcodes ∧ encode i &&& 0xFFFFFC00#32 = 0#32

theorem nop : Statement .nop := by unfold Statement; decide
theorem clear : Statement .clear := by unfold Statement; decide
theorem pset (on : Bool) : Statement (.pset on) := by unfold Statement; cases on <;> decide
theorem pget : Statement .pget := by unfold Statement; decide
theorem line (on : Bool) : Statement (.line on) := by unfold Statement; cases on <;> decide
theorem glyph : Statement .glyph := by unfold Statement; decide
theorem text (src : TextSource) : Statement (.text src) := by unfold Statement; cases src <;> decide
theorem dinit : Statement .dinit := by unfold Statement; decide
theorem push : Statement .push := by unfold Statement; decide
theorem rinit : Statement .rinit := by unfold Statement; decide
theorem listen : Statement .listen := by unfold Statement; decide
theorem unlisten : Statement .unlisten := by unfold Statement; decide
theorem poll : Statement .poll := by unfold Statement; decide
theorem recv : Statement .recv := by unfold Statement; decide
theorem xmit : Statement .xmit := by unfold Statement; decide
theorem event : Statement .event := by unfold Statement; decide
theorem armwake (level : Bool) : Statement (.armwake level) := by unfold Statement; cases level <;> decide

end Sys2Proof.Laws.CommandWord
end

