-- ==== Sys2Proof/Tests/Slice0.lean ====
section
/-! SUPPORT. The model's own tests. Expected values are the vectors of 95_test_vectors.md (section named at each test)
or the words of 30_encoding.md R86 and R91, never the model's own answers. -/

namespace Sys2Proof.Tests

open Sys2Proof.Machine

/-! ### Start states of 95_test_vectors.md section 0 -/

/-- The test font of section 0 (column i of code ch is ch + i), GLYPH_PAD = 1, RX_DEPTH = 3. -/
def testParams : Params where
  glyphWidth := 5
  glyphPad := 1
  font := (List.range 95).map fun g => (List.range 5).map fun i => BitVec.ofNat 8 (0x20 + g + i)
  rxDepth := 3

/-- A buffer that begins with the given bytes and goes on with 0x00. -/
def padded (n : Nat) (s : List Byte) : Buf n := bufOf n fun i => s.getD i 0#8

/-- S0: power-on and reset, then CLEAR; a transceiver is present. -/
def s0 : State where
  arg0 := 0#16
  arg1 := 0#16
  arg2 := 0#16
  arg3 := 0#16
  cmd := 0x10#32
  status := { Status.reset with done := true }
  err := Err.clear
  latch := none
  fb := padded 513 [0x40#8]
  msg := padded 21 []
  text := padded 32 []
  txbuf := padded 21 []
  irqPrev := true
  refused := false
  refusedInRun := false
  radio := { Radio.powerOn with present := true, floatPin := true }
  dlog := []
  rlog := []
  params := testParams
  inputs := []
  hostData := none
  draws := 1

/-- S0 with DINIT done, its transactions left out. -/
def sd : State := { s0 with status := { s0.status with dispInit := true } }

/-- SR: a transceiver is present and RINIT is done. -/
def sr : State :=
  { s0 with
    status := { s0.status with radioInit := true, listening := true }
    radio := { s0.radio with cfg := true, mode := .rx }
    rlog := [.rcfg true] }

/-- SF: no transceiver, RINIT has failed. -/
def sf : State :=
  { s0 with
    status := { s0.status with radioInit := true, radioFail := true }
    radio := { s0.radio with present := false }
    rlog := [.rcfg false] }

/-- SR after a packet has arrived. -/
def srWith (p : Payload) : State :=
  { sr with radio := { sr.radio with rxq := [p], fReady := true }, irqPrev := false }

/-- "HELLO" and sixteen 0x00. -/
def hello : Payload := padded 21 [0x48#8, 0x45#8, 0x4C#8, 0x4C#8, 0x4F#8]

/-- "!PING" and sixteen 0x00. -/
def ping : Payload := padded 21 [0x21#8, 0x50#8, 0x49#8, 0x4E#8, 0x47#8]

/-- The latch a command's acceptance leaves. -/
def latchOf (i : Instr) (a0 a1 a2 a3 : BitVec 16) : Latch := ⟨encode i, a0, a1, a2, a3⟩

/-- A state with a command accepted and the engine's turn next. -/
def accepted (i : Instr) (a0 a1 a2 a3 : BitVec 16) (s : State) : State :=
  { s with
    arg0 := a0, arg1 := a1, arg2 := a2, arg3 := a3, cmd := encode i
    latch := some (latchOf i a0 a1 a2 a3)
    status := { s.status with busy := true, done := false }, inputs := [.engine] }

/-- A state with one turn to take. -/
def facing (u : Turn) (s : State) : State := { s with inputs := [u] }

/-- What is seen of the state after one step, `none` when the step stops. -/
def after {α : Type} (s : State) (see : State → α) : Option α :=
  match step s with
  | .next t => some (see t)
  | .fault _ => none
  | .refused _ => none

/-- Some bytes of FB. -/
def fbBytes (indices : List Nat) (s : State) : List Byte := indices.map (byteAt s.fb)

/-! ### Decoding: every row of R86, its word written out -/

theorem test_decode_control : decode 0x00000000#32 = .ok .nop := by decide

theorem test_decode_renderer :
    decode 0x00000010#32 = .ok .clear ∧ decode 0x00000111#32 = .ok (.pset true) ∧
    decode 0x00000011#32 = .ok (.pset false) ∧ decode 0x00000012#32 = .ok .pget ∧
    decode 0x00000113#32 = .ok (.line true) ∧ decode 0x00000013#32 = .ok (.line false) ∧
    decode 0x00000014#32 = .ok .glyph ∧ decode 0x00000015#32 = .ok (.text .textRam) ∧
    decode 0x00000215#32 = .ok (.text .msg) := by decide

theorem test_decode_display : decode 0x00000020#32 = .ok .dinit ∧ decode 0x00000021#32 = .ok .push := by decide

theorem test_decode_radio :
    decode 0x00000030#32 = .ok .rinit ∧ decode 0x00000031#32 = .ok .listen ∧ decode 0x00000032#32 = .ok .unlisten ∧
    decode 0x00000033#32 = .ok .poll ∧ decode 0x00000034#32 = .ok .recv ∧ decode 0x00000035#32 = .ok .xmit ∧
    decode 0x00000036#32 = .ok .event := by decide

theorem test_decode_wake :
    decode 0x00000040#32 = .ok (.armwake false) ∧ decode 0x00000140#32 = .ok (.armwake true) := by decide

/-- Section 2.1 and 2.6: the words refused. -/
theorem test_decode_rejects :
    decode 0x000000FF#32 = .error .illegal ∧ decode 0x00000016#32 = .error .illegal ∧
    decode 0x00000211#32 = .error .rsvd ∧ decode 0x00000115#32 = .error .rsvd ∧
    decode 0x00000110#32 = .error .rsvd ∧ decode 0x00010011#32 = .error .rsvd ∧
    decode 0x00000340#32 = .error .rsvd ∧ decode 0x00000315#32 = .error .rsvd := by decide

/-- A table row's bits are one 32-bit word; bits from `nbits` on count as 0. -/
theorem test_decodeTableWord :
    decodeTableWord 32 0x215 = some (.text .msg) ∧ decodeTableWord 8 0x111 = some (.pset false) ∧
    decodeTableWord 32 0xFF = none := by decide

/-- R92's own example: `PSET 5, 9, 1`, and a negative coordinate. -/
theorem test_expand_pset :
    expandCommand (.pset true) [5, 9] = [.sw 0x00C#12 5#32, .sw 0x010#12 9#32, .sw 0x000#12 0x111#32, .waitIdle] ∧
    (expandCommand (.pset true) [-1, 0]).head? = some (.sw 0x00C#12 0xFFFF#32) := by decide

/-! ### WellFormed: one ill-formed term for each check -/

theorem test_wf_params : testParams.wf = true := by decide +kernel

theorem test_wf_rejects_width_zero : { testParams with glyphWidth := 0, font := List.replicate 95 [] }.wf = false := by
  decide +kernel

theorem test_wf_rejects_width_seventeen :
    { testParams with glyphWidth := 17, font := List.replicate 95 (List.replicate 17 0#8) }.wf = false := by
  decide +kernel

theorem test_wf_rejects_pad : { testParams with glyphPad := 16 }.wf = false := by decide +kernel

theorem test_wf_rejects_depth : { testParams with rxDepth := 0 }.wf = false := by decide +kernel

theorem test_wf_rejects_glyph_count : { testParams with font := testParams.font.drop 1 }.wf = false := by
  decide +kernel

theorem test_wf_rejects_glyph_length : { testParams with font := [0#8] :: testParams.font.drop 1 }.wf = false := by
  decide +kernel

theorem test_wf_accepts_lines :
    (AsmLine.command (.pset true) [-32768, 32767]).wf = true ∧ (AsmLine.command .glyph [0, 0, 255]).wf = true ∧
    (AsmLine.loadText (List.replicate 32 0x41#8)).wf = true ∧ (AsmLine.print 4 .msg).wf = true := by decide

theorem test_wf_rejects_coordinate_low : (AsmLine.command .pget [-32769, 0]).wf = false := by decide

theorem test_wf_rejects_coordinate_high : (AsmLine.command .pget [0, 32768]).wf = false := by decide

theorem test_wf_rejects_character_low : (AsmLine.command .glyph [0, 0, -1]).wf = false := by decide

theorem test_wf_rejects_character_high : (AsmLine.command .glyph [0, 0, 256]).wf = false := by decide

theorem test_wf_rejects_operand_count : (AsmLine.command (.line true) [0, 0, 1]).wf = false := by decide

theorem test_wf_rejects_loadtext : (AsmLine.loadText (List.replicate 33 0x41#8)).wf = false := by decide

theorem test_wf_rejects_loadtx : (AsmLine.loadTx (List.replicate 22 0x41#8)).wf = false := by decide

theorem test_wf_rejects_print_zero : (AsmLine.print 0 .msg).wf = false := by decide

theorem test_wf_rejects_print_five : (AsmLine.print 5 .msg).wf = false := by decide

/-! ### The register window (sections 2.1 and 2.2) -/

theorem test_accept : after (facing (.hostWrite 32 0#12 0x10#32) s0) (fun t => statusWord t.status) = some 1#32 := by
  decide +kernel

theorem test_illegal :
    after (facing (.hostWrite 32 0#12 0xFF#32) s0) (fun t => (errWord t.err, t.cmd, statusWord t.status)) =
      some (1#32, 0x10#32, 2#32) := by decide +kernel

theorem test_second_error_sets_more :
    after (facing (.hostWrite 32 0#12 0x211#32) { s0 with err := ⟨.illegal, false⟩ }) (fun t => errWord t.err) =
      some 0x11#32 := by decide +kernel

theorem test_busy_comes_first :
    after (facing (.hostWrite 32 0#12 0xFF#32) (accepted .clear 0 0 0 0 s0)) (fun t => errWord t.err) =
      some 3#32 := by decide +kernel

theorem test_write_one_to_clear :
    after (facing (.hostWrite 32 4#12 0xFFFFFFFF#32) s0) (fun t => statusWord t.status) = some 0#32 := by
  decide +kernel

theorem test_txbuf_pads :
    after (facing (.hostWrite 32 0x174#12 0xFFFFFFFF#32) s0) (fun t => windowWord t.txbuf 5) = some 0xFF#32 := by
  decide +kernel

theorem test_arg_reads_sixteen_bits :
    after (facing (.hostRead 32 0xC#12) { s0 with arg0 := 0xFFFF#16 }) (fun t => t.hostData) =
      some (some 0xFFFF#32) := by decide +kernel

theorem test_msg_word :
    after (facing (.hostRead 32 0x140#12) { s0 with msg := hello }) (fun t => t.hostData) =
      some (some 0x4C4C4548#32) := by decide +kernel

theorem test_refused_accesses :
    [.hostRead 32 2#12, .hostRead 16 0#12, .hostRead 32 0x20#12, .hostRead 32 0x604#12].map
      (fun u => after (facing u s0) (fun t => (t.refused, t.refusedInRun, t.hostData))) =
      List.replicate 4 (some (true, true, none)) := by decide +kernel

/-! ### Commands (sections 2.3 to 2.9) -/

theorem test_nop : after (accepted .nop 0 0 0 0 s0) (fun t => statusWord t.status) = some 2#32 := by decide +kernel

theorem test_clear :
    after (accepted .clear 0 0 0 0 { s0 with fb := padded 513 [0x40#8, 0xFF#8, 0x81#8] }) (fbBytes [0, 1, 2, 512]) =
      some [0x40#8, 0#8, 0#8, 0#8] := by decide +kernel

theorem test_pset : after (accepted (.pset true) 5 9 0 0 s0) (fbBytes [6, 133, 134]) = some [0#8, 0#8, 2#8] := by
  decide +kernel

/-- `PSET 3, 7, 0` on a byte 0xC0. -/
theorem test_pset_off :
    after (accepted (.pset false) 3 7 0 0 { s0 with fb := padded 513 [0x40#8, 0#8, 0#8, 0#8, 0xC0#8] })
      (fbBytes [4]) = some [0x40#8] := by decide +kernel

theorem test_pget :
    after (accepted .pget 0 0 0 0 { s0 with fb := padded 513 [0x40#8, 1#8] }) (fun t => statusWord t.status) =
      some 0x402#32 := by decide +kernel

/-- `PGET -1, 0` reads 0. -/
theorem test_pget_out_of_range :
    after (accepted .pget 0xFFFF 0 0 0 { s0 with fb := padded 513 [0x40#8, 0xFF#8] }) (fun t => t.status.pixel) =
      some false := by decide +kernel

theorem test_line_points :
    linePoints 0 0 5 2 = [(0, 0), (1, 0), (2, 1), (3, 1), (4, 2), (5, 2)] ∧
    linePoints 0 0 2 1 = [(0, 0), (1, 1), (2, 1)] ∧ linePoints 2 1 0 0 = [(2, 1), (1, 0), (0, 0)] ∧
    linePoints 0 0 (-3) 1 = [(0, 0), (-1, 0), (-2, 1), (-3, 1)] := by decide

theorem test_line : after (accepted (.line true) 0 6 0 9 s0) (fbBytes [1, 129, 2]) = some [0xC0#8, 3#8, 0#8] := by
  decide +kernel

/-- `GLYPH 125, 0, 'A'`: right clip. -/
theorem test_glyph_clips :
    after (accepted .glyph 125 0 0x41 0 s0) (fbBytes [125, 126, 127, 128, 129]) =
      some [0#8, 0x41#8, 0x42#8, 0x43#8, 0#8] := by decide +kernel

/-- `GLYPH -2, 0` with ARG2 = 0x0141: left clip, and only ARG2 bits 7:0 are the code. -/
theorem test_glyph_code_is_low_byte :
    after (accepted .glyph 0xFFFE 0 0x141 0 s0) (fbBytes [1, 2, 3, 4]) = some [0x43#8, 0x44#8, 0x45#8, 0#8] := by
  decide +kernel

/-- "AB" at `TEXT 0, 8`. -/
theorem test_text :
    after (accepted (.text .textRam) 0 8 0 0 { s0 with text := padded 32 [0x41#8, 0x42#8] })
      (fbBytes [129, 133, 134, 135, 139]) = some [0x41#8, 0x45#8, 0#8, 0x42#8, 0x46#8] := by decide +kernel

/-- MSG = "!PING" at `TEXT 0, 0`. -/
theorem test_text_msg :
    after (accepted (.text .msg) 0 0 0 0 { s0 with msg := ping }) (fbBytes [1, 7, 13, 25, 31]) =
      some [0x21#8, 0x50#8, 0x49#8, 0x47#8, 0#8] := by decide +kernel

theorem test_dinit :
    after (accepted .dinit 0 0 0 0 s0)
      (fun t => (statusWord t.status, t.dlog.length, t.dlog.head?, t.dlog.getLast?)) =
      some (6#32, 13, some ⟨0x3C#7, [0#8, 0xAE#8]⟩, some ⟨0x3C#7, [0#8, 0xAF#8]⟩) := by decide +kernel

theorem test_dinit_twice :
    after (accepted .dinit 0 0 0 0 sd) (fun t => (statusWord t.status, errWord t.err, t.dlog)) =
      some (4#32, 5#32, []) := by decide +kernel

theorem test_push :
    after (accepted .push 0 0 0 0 { sd with fb := padded 513 [0x40#8, 1#8] })
      (fun t => t.dlog.map fun w => (w.addr, w.bytes.length, w.bytes.take 3)) =
      some [(0x3C#7, 513, [0x40#8, 1#8, 0#8])] := by decide +kernel

theorem test_push_before_dinit :
    after (accepted .push 0 0 0 0 s0) (fun t => (statusWord t.status, errWord t.err, t.cmd, t.dlog)) =
      some (0#32, 4#32, 0x21#32, []) := by decide +kernel

theorem test_rinit :
    after (accepted .rinit 0 0 0 0 s0) (fun t => (statusWord t.status, t.rlog, t.radio.mode, irqLevel t.radio)) =
      some (0x2A#32, [.rcfg true], .rx, true) := by decide +kernel

theorem test_rinit_fails :
    after (accepted .rinit 0 0 0 0 { s0 with radio := sf.radio }) (fun t => (statusWord t.status, t.rlog)) =
      some (0x1A#32, [.rcfg false]) := by decide +kernel

theorem test_listen :
    after (accepted .listen 0 0 0 0
        { sr with status := { sr.status with listening := false }, radio := { sr.radio with mode := .tx } })
      (fun t => (statusWord t.status, t.rlog.getLast?, t.radio.mode)) =
      some (0x2A#32, some (.rmode .rx), .rx) := by decide +kernel

theorem test_unlisten :
    after (accepted .unlisten 0 0 0 0 sr) (fun t => (statusWord t.status, t.rlog.getLast?, t.radio.mode)) =
      some (0x0A#32, some (.rmode .tx), .tx) := by decide +kernel

theorem test_radio_down :
    after (accepted .listen 0 0 0 0 sf) (fun t => (errWord t.err, t.rlog)) = some (6#32, [.rcfg false]) := by
  decide +kernel

theorem test_poll :
    after (accepted .poll 0 0 0 0 (srWith hello))
      (fun t => (statusWord t.status, t.rlog.getLast?, irqLevel t.radio)) =
      some (0x12A#32, some (.rflags false false true), true) := by decide +kernel

theorem test_recv :
    after (accepted .recv 0 0 0 0 (srWith hello)) (fun t => (t.msg, t.radio.rxq, statusWord t.status)) =
      some (hello, [], 0x2A#32) := by decide +kernel

/-- The fields an XMIT from SR leaves whatever the outcome: RMODE(TX) and one more entry, LISTENING = 0. -/
theorem test_xmit :
    after (accepted .xmit 0 0 0 0 sr) (fun t => (t.status.listening, t.rlog.length, t.rlog[1]?)) =
      some (false, 3, some (.rmode .tx)) := by decide +kernel

/-- The draws of section 2.8: ACK kept, ACK not kept, MAX_RT kept, TIMEOUT. -/
theorem test_send_draws :
    [SendDraws.mk true .ack true, ⟨true, .ack, false⟩, ⟨true, .maxRt, true⟩, ⟨true, .timeout, true⟩].map
      (fun d => let r := Radio.sent d { sr.radio with mode := .tx }; (r.fSent, r.fFailed, r.txp, irqLevel r)) =
      [(true, false, false, false), (false, false, false, true), (false, true, false, false),
       (false, false, true, true)] := by decide

theorem test_event_hello :
    after (accepted .event 0 0 0 0 (srWith hello)) (fun t => (t.msg, statusWord t.status, t.rlog.length)) =
      some (hello, 0x12A#32, 3) := by decide +kernel

/-- The fields an EVENT that reads a ping leaves whatever the outcome. -/
theorem test_event_ping :
    after (accepted .event 0 0 0 0 (srWith ping))
      (fun t => (t.msg, t.status.ping, t.status.listening, t.radio.mode, t.rlog.length)) =
      some (ping, true, true, .rx, 6) := by decide +kernel

/-- P3: `ARMWAKE 0` in a state with DISP_INIT. -/
theorem test_armwake :
    after (accepted (.armwake false) 0 0 0 0 sd) (fun t => statusWord t.status) = some 0x1006#32 := by decide +kernel

/-- An arrival with the detector armed for 0 fires it. -/
theorem test_arrival_wakes :
    after (facing (.arrival hello) { sr with status := { sr.status with wakeArmed := true } })
      (fun t => (statusWord t.status, t.radio.rxq)) = some (0x202A#32, [hello]) := by decide +kernel

/-- A packet that finds the queue full is lost (R172). -/
theorem test_arrival_lost :
    after (facing (.arrival hello) { sr with radio := { sr.radio with rxq := [ping, ping, ping] } })
      (fun t => (t.radio.rxq.length, t.radio.fReady)) = some (3, false) := by decide +kernel

theorem test_late_completion :
    after (facing (.lateCompletion true) { sr with radio := { sr.radio with txp := true } })
      (fun t => (t.radio.fSent, t.radio.txp, irqLevel t.radio)) = some (true, false, false) := by decide +kernel

/-! ### Witnesses: for every statement with hypotheses, a state and operands that meet them all together. A statement
with several clauses has one for each, at a boundary value of its range. -/

theorem inv_s0 : Inv s0 where
  latch := by decide
  cmd := by decide
  fbPrefix := by decide +kernel
  err := by decide
  settled := by decide
  wake := by decide
  radio := by decide
  link := by decide
  params := test_wf_params
  mark := by decide

theorem inv_sd : Inv sd where
  latch := by decide
  cmd := by decide
  fbPrefix := inv_s0.fbPrefix
  err := by decide
  settled := by decide
  wake := by decide
  radio := by decide
  link := by decide
  params := test_wf_params
  mark := by decide

theorem inv_sr : Inv sr where
  latch := by decide
  cmd := by decide
  fbPrefix := inv_s0.fbPrefix
  err := by decide
  settled := by decide
  wake := by decide
  radio := by decide
  link := by decide
  params := test_wf_params
  mark := by decide

theorem inv_sf : Inv sf where
  latch := by decide
  cmd := by decide
  fbPrefix := inv_s0.fbPrefix
  err := by decide
  settled := by decide
  wake := by decide
  radio := by decide
  link := by decide
  params := test_wf_params
  mark := by decide

theorem inv_srWith (p : Payload) : Inv (srWith p) where
  latch := inv_sr.latch
  cmd := inv_sr.cmd
  fbPrefix := inv_sr.fbPrefix
  err := inv_sr.err
  settled := rfl
  wake := inv_sr.wake
  radio := by simp [RadioInv, srWith, sr, s0, testParams]
  link := by simp [LinkInv, srWith, sr, s0, Status.reset]
  params := test_wf_params
  mark := inv_sr.mark

/-- SR turned to transmitting mode, as UNLISTEN leaves it. -/
def st : State :=
  { sr with status := { sr.status with listening := false }, radio := { sr.radio with mode := .tx } }

theorem inv_st : Inv st where
  latch := by decide
  cmd := by decide
  fbPrefix := inv_s0.fbPrefix
  err := by decide
  settled := by decide
  wake := by decide
  radio := by decide
  link := by decide
  params := test_wf_params
  mark := by decide

/-- Every witness state made by `facing` has exactly that turn to take. -/
theorem facing_inputs (u : Turn) (s : State) : (facing u s).inputs = u :: [] := rfl

/-- The busy state of the witnesses: CLEAR accepted, not yet performed. -/
def sb : State := accepted .clear 0 0 0 0 s0

theorem witness_EngineTurnRunsLatchedCommand :
    sb.inputs = .engine :: [] ∧ sb.status.busy = true ∧ sb.latch = some (latchOf .clear 0 0 0 0) ∧
    decode (latchOf .clear 0 0 0 0).word = .ok .clear := by decide

theorem witness_EngineHasNoStepWhileIdle :
    (facing .engine s0).inputs = .engine :: [] ∧ (facing .engine s0).status.busy = false := by decide

theorem witness_PlacedWordRunsNext : decodeTableWord 32 0x215 = some (.text .msg) := by decide

/-- Busy, ILLEGAL, RSVD, accepted. -/
theorem witness_CommandWriteIsAcceptedOrRejected :
    (Settled (facing (.hostWrite 32 0#12 0#32) sb) ∧ (facing (.hostWrite 32 0#12 0#32) sb).status.busy = true ∧
      (facing (.hostWrite 32 0#12 0#32) sb).inputs = .hostWrite 32 0#12 0#32 :: []) ∧
    (Settled (facing (.hostWrite 32 0#12 0x111#32) s0) ∧ s0.status.busy = false ∧
      (facing (.hostWrite 32 0#12 0x111#32) s0).inputs = .hostWrite 32 0#12 0x111#32 :: [] ∧ decode 0xFF#32 = .error .illegal ∧ decode 0x211#32 = .error .rsvd ∧
      decode 0x111#32 = .ok (.pset true)) := by decide

theorem witness_WritesAroundBusy :
    ∀ off ∈ [0x100#12, 0x11C#12, 0x160#12, 0x174#12],
      Settled (facing (.hostWrite 32 off 5#32) sb) ∧ (facing (.hostWrite 32 off 5#32) sb).status.busy = true ∧
      (facing (.hostWrite 32 off 5#32) sb).inputs = .hostWrite 32 off 5#32 :: [] ∧ off.toNat % 4 = 0 ∧
      (0x100 ≤ off.toNat ∧ off.toNat < 0x120 ∨ 0x160 ≤ off.toNat ∧ off.toNat < 0x178) := by
  intro off h
  simp only [List.mem_cons, List.not_mem_nil, or_false] at h
  rcases h with rfl | rfl | rfl | rfl <;> decide

/-- The clauses that BUSY does not touch, in a busy and in an idle block. -/
theorem witness_WritesAroundBusy_registers :
    ∀ off ∈ [0x00C#12, 0x010#12, 0x014#12, 0x018#12, 0x004#12, 0x008#12],
      Settled (facing (.hostWrite 32 off 5#32) sb) ∧ (facing (.hostWrite 32 off 5#32) sb).status.busy = true ∧
      Settled (facing (.hostWrite 32 off 5#32) s0) ∧ (facing (.hostWrite 32 off 5#32) s0).status.busy = false ∧
      (facing (.hostWrite 32 off 5#32) s0).inputs = .hostWrite 32 off 5#32 :: [] := by
  intro off h
  simp only [List.mem_cons, List.not_mem_nil, or_false] at h
  rcases h with rfl | rfl | rfl | rfl | rfl | rfl <;> decide

theorem witness_WindowStoresLittleEndian :
    ∀ off ∈ [0x100#12, 0x11C#12, 0x160#12, 0x174#12],
      Settled (facing (.hostWrite 32 off 5#32) s0) ∧ (facing (.hostWrite 32 off 5#32) s0).status.busy = false ∧
      (facing (.hostWrite 32 off 5#32) s0).inputs = .hostWrite 32 off 5#32 :: [] ∧ off.toNat % 4 = 0 ∧
      (0x100 ≤ off.toNat ∧ off.toNat < 0x120 ∨ 0x160 ≤ off.toNat ∧ off.toNat < 0x178) := by
  intro off h
  simp only [List.mem_cons, List.not_mem_nil, or_false] at h
  rcases h with rfl | rfl | rfl | rfl <;> decide

theorem witness_WindowReadsLittleEndian :
    ∀ off ∈ [0x100#12, 0x11C#12, 0x140#12, 0x154#12, 0x160#12, 0x174#12, 0x400#12, 0x600#12],
      (facing (.hostRead 32 off) s0).inputs = .hostRead 32 off :: [] ∧ off.toNat % 4 = 0 ∧
      (0x100 ≤ off.toNat ∧ off.toNat < 0x120 ∨ 0x140 ≤ off.toNat ∧ off.toNat < 0x158 ∨
        0x160 ≤ off.toNat ∧ off.toNat < 0x178 ∨ 0x400 ≤ off.toNat ∧ off.toNat < 0x604) := by
  intro off h
  simp only [List.mem_cons, List.not_mem_nil, or_false] at h
  rcases h with rfl | rfl | rfl | rfl | rfl | rfl | rfl | rfl <;> decide

theorem witness_RegisterReadsReturnTheirFields :
    ∀ off ∈ [0x000#12, 0x004#12, 0x008#12, 0x00C#12, 0x010#12, 0x014#12, 0x018#12],
      (facing (.hostRead 32 off) s0).inputs = .hostRead 32 off :: [] := fun _ _ => rfl

/-- Refused: a wrong width, a misaligned offset, the first unmapped offset after each mapped range. -/
theorem witness_AccessIsRefusedExactlyWhenIllFormed :
    (∀ a ∈ [(16, 0x000#12), (8, 0x100#12), (32, 0x002#12), (32, 0x01C#12), (32, 0x120#12), (32, 0x158#12),
        (32, 0x178#12), (32, 0x604#12), (32, 0xFFC#12)],
      a.1 ≠ 32 ∨ a.2.toNat % 4 ≠ 0 ∨
        ¬(a.2.toNat ≤ 0x18 ∨ 0x100 ≤ a.2.toNat ∧ a.2.toNat < 0x120 ∨ 0x140 ≤ a.2.toNat ∧ a.2.toNat < 0x158 ∨
          0x160 ≤ a.2.toNat ∧ a.2.toNat < 0x178 ∨ 0x400 ≤ a.2.toNat ∧ a.2.toNat < 0x604)) ∧
    (facing (.hostRead 16 0#12) s0).inputs = .hostRead 16 0#12 :: [] ∧
    (facing (.hostWrite 32 0x604#12 0#32) s0).inputs = .hostWrite 32 0x604#12 0#32 :: [] := by
  refine ⟨?_, by decide, by decide⟩
  intro a h
  simp only [List.mem_cons, List.not_mem_nil, or_false] at h
  rcases h with rfl | rfl | rfl | rfl | rfl | rfl | rfl | rfl | rfl <;> decide

/-- Not refused: the first and the last word of each mapped range, read or written (`facing_inputs`). -/
theorem witness_AccessIsRefusedExactlyWhenIllFormed_mapped :
    ∀ off ∈ [0x000#12, 0x018#12, 0x100#12, 0x11C#12, 0x140#12, 0x154#12, 0x160#12, 0x174#12, 0x400#12, 0x600#12],
      ¬((32 : Nat) ≠ 32 ∨ off.toNat % 4 ≠ 0 ∨
        ¬(off.toNat ≤ 0x18 ∨ 0x100 ≤ off.toNat ∧ off.toNat < 0x120 ∨ 0x140 ≤ off.toNat ∧ off.toNat < 0x158 ∨
          0x160 ≤ off.toNat ∧ off.toNat < 0x178 ∨ 0x400 ≤ off.toNat ∧ off.toNat < 0x604)) := by
  intro off h
  simp only [List.mem_cons, List.not_mem_nil, or_false] at h
  rcases h with rfl | rfl | rfl | rfl | rfl | rfl | rfl | rfl | rfl | rfl <;> decide

theorem witness_ReadHasNoSideEffect :
    ∀ off ∈ [0x000#12, 0x600#12, 0x604#12],
      Settled (facing (.hostRead 32 off) s0) ∧ (facing (.hostRead 32 off) s0).inputs = .hostRead 32 off :: [] := by
  decide

theorem witness_ReadOnlyWindowsIgnoreWrites :
    ∀ off ∈ [0x140#12, 0x154#12, 0x400#12, 0x600#12],
      Settled (facing (.hostWrite 32 off 5#32) s0) ∧
      (facing (.hostWrite 32 off 5#32) s0).inputs = .hostWrite 32 off 5#32 :: [] ∧ off.toNat % 4 = 0 ∧
      (0x140 ≤ off.toNat ∧ off.toNat < 0x158 ∨ 0x400 ≤ off.toNat ∧ off.toNat < 0x604) := by
  intro off h
  simp only [List.mem_cons, List.not_mem_nil, or_false] at h
  rcases h with rfl | rfl | rfl | rfl <;> decide

theorem witness_NopOnlyCompletes : Settled (accepted .nop 0 0 0 0 s0) := by decide

theorem witness_ClearZeroesPixelBytes : Settled (accepted .clear 0 0 0 0 s0) := by decide

/-- The last pixel, and one out of range on each side. -/
theorem witness_PsetWritesExactlyItsPixel :
    ∀ a ∈ [(127#16, 31#16), (128#16, 0#16), (0#16, 32#16), (0xFFFF#16, 0#16)],
      Settled (accepted (.pset true) a.1 a.2 0 0 s0) ∧
      (accepted (.pset true) a.1 a.2 0 0 s0).latch = some (latchOf (.pset true) a.1 a.2 0 0) :=
  fun _ _ => ⟨rfl, rfl⟩

theorem witness_PgetReadsPixel :
    Settled (accepted .pget 127 31 0 0 s0) ∧
    (accepted .pget 127 31 0 0 s0).latch = some (latchOf .pget 127 31 0 0) ∧
    (latchOf .pget 127 31 0 0).a0.toInt = (127 : Nat) ∧ (latchOf .pget 127 31 0 0).a1.toInt = (31 : Nat) := by decide

theorem witness_PgetReadsPixel_outOfRange :
    Settled (accepted .pget 128 0 0 0 s0) ∧
    (accepted .pget 128 0 0 0 s0).latch = some (latchOf .pget 128 0 0 0) ∧
    ¬(0 ≤ (latchOf .pget 128 0 0 0).a0.toInt ∧ (latchOf .pget 128 0 0 0).a0.toInt < 128 ∧
      0 ≤ (latchOf .pget 128 0 0 0).a1.toInt ∧ (latchOf .pget 128 0 0 0).a1.toInt < 32) := by decide

theorem witness_PsetThenPgetReportsOn :
    (accepted (.pset true) 127 31 0 0 s0).latch = some (latchOf (.pset true) 127 31 0 0) ∧
    (0 ≤ (latchOf (.pset true) 127 31 0 0).a0.toInt ∧ (latchOf (.pset true) 127 31 0 0).a0.toInt < 128 ∧
      0 ≤ (latchOf (.pset true) 127 31 0 0).a1.toInt ∧ (latchOf (.pset true) 127 31 0 0).a1.toInt < 32) ∧
    ¬(0 ≤ (latchOf (.pset true) 0 32 0 0).a0.toInt ∧ (latchOf (.pset true) 0 32 0 0).a0.toInt < 128 ∧
      0 ≤ (latchOf (.pset true) 0 32 0 0).a1.toInt ∧ (latchOf (.pset true) 0 32 0 0).a1.toInt < 32) := by decide

theorem witness_LineDrawsExactlyItsCells :
    Settled (accepted (.line true) 126 30 130 31 s0) ∧
    (accepted (.line true) 126 30 130 31 s0).latch = some (latchOf (.line true) 126 30 130 31) := by decide

/-- A tie, and a cell that is the last of its line. -/
theorem witness_LinePointsShape :
    (linePoints 0 0 2 1)[0]? = some (0, 0) ∧ (linePoints 0 0 2 1)[0 + 1]? = some (1, 1) ∧
    (1 - 0 : Int).natAbs ≤ (2 - 0 : Int).natAbs ∧
    (linePoints 0 0 1 3)[2]? = some (1, 2) ∧ (linePoints 0 0 1 3)[2 + 1]? = some (1, 3) ∧
    (1 - 0 : Int).natAbs < (3 - 0 : Int).natAbs := by decide

/-- Horizontal, vertical and diagonal lines, and the one-cell line that is all three. -/
theorem witness_StraightLinesCoverTheirCells :
    linePoints 2 5 0 5 = [(2, 5), (1, 5), (0, 5)] ∧ linePoints 4 0 4 2 = [(4, 0), (4, 1), (4, 2)] ∧
    (((-2) - 0 : Int).natAbs = (2 - 0 : Int).natAbs ∧ linePoints 0 0 (-2) 2 = [(0, 0), (-1, 1), (-2, 2)]) ∧
    linePoints 4 4 4 4 = [(4, 4)] := by decide

theorem witness_PsetEqualsDegenerateLine :
    (accepted (.pset true) 7 7 0 0 s0).latch = some (latchOf (.pset true) 7 7 0 0) := by decide

theorem witness_LineIsErasedBySameLine :
    (accepted (.line true) 0 0 2 1 s0).latch = some (latchOf (.line true) 0 0 2 1) ∧
    (((2 : Nat) : Int), ((1 : Nat) : Int)) ∈ linePoints (latchOf (.line true) 0 0 2 1).a0.toInt
      (latchOf (.line true) 0 0 2 1).a1.toInt (latchOf (.line true) 0 0 2 1).a2.toInt
      (latchOf (.line true) 0 0 2 1).a3.toInt ∧
    (((0 : Nat) : Int), ((1 : Nat) : Int)) ∉ linePoints (latchOf (.line true) 0 0 2 1).a0.toInt
      (latchOf (.line true) 0 0 2 1).a1.toInt (latchOf (.line true) 0 0 2 1).a2.toInt
      (latchOf (.line true) 0 0 2 1).a3.toInt := by decide

/-- A glyph at the right edge, and one off screen. -/
theorem witness_GlyphWritesItsColumns :
    ∀ a ∈ [(125#16, 0#16, 0x7E#16), (0#16, 32#16, 0x41#16)],
      Settled (accepted .glyph a.1 a.2.1 a.2.2 0 s0) ∧
      (accepted .glyph a.1 a.2.1 a.2.2 0 s0).latch = some (latchOf .glyph a.1 a.2.1 a.2.2 0) :=
  fun _ _ => ⟨rfl, rfl⟩

/-- TEXT RAM "AB" at x = 120: byte 1, its glyph's column 1 at x = 127 of page 0. -/
theorem witness_TextWritesItsGlyphs :
    Settled (accepted (.text .textRam) 120 0 0 0 { s0 with text := padded 32 [0x41#8, 0x42#8] }) ∧
    (accepted (.text .textRam) 120 0 0 0 { s0 with text := padded 32 [0x41#8, 0x42#8] }).latch =
      some (latchOf (.text .textRam) 120 0 0 0) ∧
    ((padded 32 [0x41#8, 0x42#8]).toList.takeWhile (fun c => c != 0#8))[1]? = some 0x42#8 ∧
    1 < testParams.glyphWidth ∧
    ((127 : Nat) : Int) = (latchOf (.text .textRam) 120 0 0 0).a0.toInt + (1 * 6 : Nat) + (1 : Nat) ∧
    ((0 : Nat) : Int) = (latchOf (.text .textRam) 120 0 0 0).a1.toInt / 8 := by decide +kernel

/-- With an empty string no (j, i) gives any column: the clause on bytes TEXT leaves alone, at the last column. -/
theorem witness_TextWritesItsGlyphs_untouched :
    ¬∃ j i : Nat, ∃ c : Byte, ((padded 32 []).toList.takeWhile (fun c => c != 0#8))[j]? = some c ∧ i < 5 ∧
      0x20 ≤ c.toNat ∧ c.toNat ≤ 0x7E ∧ ((3 : Nat) : Int) = (24#16).toInt / 8 ∧
      ((127 : Nat) : Int) = (0#16).toInt + (j * 6 : Nat) + i := by
  rintro ⟨j, i, c, h, -⟩
  rw [show (padded 32 []).toList.takeWhile (fun c => c != 0#8) = [] by decide] at h
  simp at h

theorem witness_TextIsIdempotent :
    (accepted (.text .msg) 0 24 0 0 { s0 with msg := ping }).latch = some (latchOf (.text .msg) 0 24 0 0) ∧
    byteAt s0.msg 0 = 0#8 := by decide +kernel

theorem witness_DinitSendsInitSequence :
    Settled (accepted .dinit 0 0 0 0 s0) ∧ (accepted .dinit 0 0 0 0 s0).status.dispInit = false := by decide

theorem witness_SecondInitRaisesOneshot :
    (Settled sd ∧ sd.status.dispInit = true) ∧ (Settled sf ∧ sf.status.radioInit = true) := by decide

theorem witness_PushSendsWholeFrame : Settled sd ∧ sd.status.dispInit = true := by decide

theorem witness_PushBeforeDinitRaisesNotInit : Settled s0 ∧ s0.status.dispInit = false := by decide

/-- S0 with no transceiver. -/
def sx : State := { s0 with radio := sf.radio }

theorem witness_RinitConfiguresOrRecordsFailure :
    (Inv s0 ∧ s0.status.radioInit = false ∧ s0.radio.present = true) ∧
    (Inv sx ∧ sx.status.radioInit = false ∧ sx.radio.present = false) :=
  ⟨⟨inv_s0, rfl, rfl⟩,
    { latch := by decide, cmd := by decide, fbPrefix := inv_s0.fbPrefix, err := by decide, settled := by decide
      wake := by decide, radio := by decide, link := by decide, params := test_wf_params
      mark := by decide }, rfl, rfl⟩

theorem witness_RadioCommandsAreGated :
    (∀ i ∈ [Instr.listen, .unlisten, .poll, .recv, .xmit],
      Settled (accepted i 0 0 0 0 s0) ∧ (accepted i 0 0 0 0 s0).status.radioInit = false) ∧
    (Settled sf ∧ sf.status.radioInit = true ∧ sf.status.radioFail = true) := by decide

theorem witness_ListenAndUnlistenSetTheMode :
    Inv sr ∧ sr.status.radioInit = true ∧ sr.status.radioFail = false := ⟨inv_sr, rfl, rfl⟩

theorem witness_PollReadsAndClearsFlags :
    Inv (srWith hello) ∧ (srWith hello).status.radioInit = true ∧ (srWith hello).status.radioFail = false :=
  ⟨inv_srWith hello, rfl, rfl⟩

/-- A queue with a head, and an empty one. -/
theorem witness_RecvMovesHeadToMsg :
    (Inv (srWith hello) ∧ (srWith hello).status.radioInit = true ∧ (srWith hello).status.radioFail = false ∧
      (srWith hello).radio.rxq = hello :: []) ∧
    (Inv sr ∧ sr.status.radioInit = true ∧ sr.status.radioFail = false ∧ sr.radio.rxq = []) :=
  ⟨⟨inv_srWith hello, rfl, rfl, rfl⟩, inv_sr, rfl, rfl, rfl⟩

/-- From listening mode and from transmitting mode. -/
theorem witness_XmitSendsTxbufOnce :
    (Inv sr ∧ sr.status.radioInit = true ∧ sr.status.radioFail = false ∧ sr.radio.mode = .rx) ∧
    (Inv st ∧ st.status.radioInit = true ∧ st.status.radioFail = false ∧ st.radio.mode = .tx) :=
  ⟨⟨inv_sr, rfl, rfl, rfl⟩, inv_st, rfl, rfl, rfl⟩

theorem witness_EventWithoutDataOnlyPolls :
    Inv sr ∧ sr.status.radioInit = true ∧ sr.status.radioFail = false ∧ sr.radio.fReady = false :=
  ⟨inv_sr, rfl, rfl, rfl⟩

/-- "!PINGX" differs from a ping in byte 5 alone. -/
def pingX : Payload := padded 21 [0x21#8, 0x50#8, 0x49#8, 0x4E#8, 0x47#8, 0x58#8]

/-- SR with f_ready latched and an empty queue, as a RECV of the only payload leaves it. -/
def srRead : State := { srWith hello with radio := { (srWith hello).radio with rxq := [] } }

theorem inv_srRead : Inv srRead where
  latch := inv_sr.latch
  cmd := inv_sr.cmd
  fbPrefix := inv_sr.fbPrefix
  err := inv_sr.err
  settled := rfl
  wake := inv_sr.wake
  radio := by decide
  link := by decide
  params := test_wf_params
  mark := inv_sr.mark

/-- A queue with a head that is no ping, and an empty one. -/
theorem witness_EventKeepsOtherPayloads :
    (Inv (srWith pingX) ∧ (srWith pingX).status.radioInit = true ∧ (srWith pingX).status.radioFail = false ∧
      (srWith pingX).radio.fReady = true ∧ (srWith pingX).radio.rxq = pingX :: [] ∧ ¬HoldsPing pingX) ∧
    (Inv srRead ∧ srRead.status.radioInit = true ∧ srRead.status.radioFail = false ∧ srRead.radio.fReady = true ∧
      srRead.radio.rxq = []) :=
  ⟨⟨inv_srWith pingX, rfl, rfl, rfl, rfl, by decide⟩, inv_srRead, rfl, rfl, rfl, rfl⟩

/-- A queue with a ping at its head (an empty one: `witness_EventKeepsOtherPayloads`). -/
theorem witness_EventAnswersPing :
    Inv (srWith ping) ∧ (srWith ping).status.radioInit = true ∧ (srWith ping).status.radioFail = false ∧
    (srWith ping).radio.fReady = true ∧ (srWith ping).radio.rxq = ping :: [] ∧ HoldsPing ping :=
  ⟨inv_srWith ping, rfl, rfl, rfl, rfl, by decide⟩

theorem witness_EventWithoutARadio :
    (Settled s0 ∧ s0.status.radioInit = false) ∧
    (Settled sf ∧ sf.status.radioInit = true ∧ sf.status.radioFail = true) := by decide

theorem witness_OnlyXmitAndEventSend : ∃ t, exec .xmit (accepted .xmit 0 0 0 0 sr) = .next t := ⟨_, rfl⟩

/-- The engine performing ARMWAKE, and an arrival that leaves an unarmed detector alone. -/
theorem witness_DisarmedDetectorStaysSilent :
    (∃ t, step (accepted (.armwake true) 0 0 0 0 s0) = .next t ∧
      (accepted (.armwake true) 0 0 0 0 s0).status.wakeArmed = false ∧ t.status.wakeArmed = true) ∧
    (∃ t, step (facing (.arrival hello) { sr with status := { sr.status with wakePending := true } }) = .next t ∧
      sr.status.wakeArmed = false ∧ t.status.wakePending = true) :=
  ⟨⟨_, rfl, rfl, rfl⟩, _, rfl, rfl, rfl⟩

/-- Room for one more, a full queue, and a transceiver that is not listening (turns: `facing_inputs`). -/
theorem witness_ArrivalQueuesOrIsLost :
    (Settled (facing (.arrival hello) { sr with radio := { sr.radio with rxq := [ping, ping] } }) ∧
      sr.radio.present = true ∧ sr.radio.cfg = true ∧ sr.radio.mode = .rx ∧ 2 < sr.params.rxDepth) ∧
    (Settled (facing (.arrival hello) { sr with radio := { sr.radio with rxq := [ping, ping, ping] } }) ∧
      ¬3 < sr.params.rxDepth) ∧
    (Settled (facing (.arrival hello) st) ∧
      ¬(st.radio.present = true ∧ st.radio.cfg = true ∧ st.radio.mode = .rx)) := by decide

/-- A send in flight, and none (turns: `facing_inputs`). -/
theorem witness_LateCompletionLatchesOneFlag :
    (Settled (facing (.lateCompletion false) { st with radio := { st.radio with txp := true } }) ∧
      ({ st with radio := { st.radio with txp := true } } : State).radio.txp = true) ∧
    (Settled (facing (.lateCompletion true) st) ∧ st.radio.txp = false) := by decide

/-- Without a transceiver, and with one (turns: `facing_inputs`). -/
theorem witness_PinNoiseOnlyWithoutTransceiver :
    (Settled (facing (.pinNoise false) sf) ∧ sf.radio.present = false) ∧
    (Settled (facing (.pinNoise false) sr) ∧ sr.radio.present = true) := by decide

theorem witness_OnlyCommandsClearFlags :
    ∃ t, step (facing .blockReset (srWith hello)) = .next t ∧
      (facing .blockReset (srWith hello)).inputs = .blockReset :: [] ∧ Turn.blockReset ≠ .engine ∧
      (srWith hello).radio.fReady = true := ⟨_, rfl, rfl, by decide, rfl⟩

theorem witness_BlockResetLeavesTheDevices : (facing .blockReset (srWith hello)).inputs = .blockReset :: [] := rfl

theorem witness_StepKeepsInvariant : ∃ t, Inv (facing .engine sr) ∧ step (facing .engine sr) = .next t :=
  ⟨_, ⟨inv_sr.latch, inv_sr.cmd, inv_sr.fbPrefix, inv_sr.err, inv_sr.settled, inv_sr.wake, inv_sr.radio, inv_sr.link,
    inv_sr.params, inv_sr.mark⟩, rfl⟩

/-- A state of the invariant in which the engine has a command to perform. -/
theorem witness_NoStepStops : Inv (accepted .xmit 0 0 0 0 sr) where
  latch := by decide
  cmd := by decide
  fbPrefix := inv_sr.fbPrefix
  err := inv_sr.err
  settled := inv_sr.settled
  wake := by decide
  radio := inv_sr.radio
  link := by decide
  params := inv_sr.params
  mark := inv_sr.mark

theorem witness_PrefixByteIsFixed :
    (∃ t, byteAt sb.fb 0 = 0x40#8 ∧ step sb = .next t) ∧ ∃ t, exec .clear sb = .next t :=
  ⟨⟨_, inv_s0.fbPrefix, rfl⟩, _, rfl⟩

theorem witness_EveryCommandKeepsItsFrame : ∃ t, exec .event (accepted .event 0 0 0 0 (srWith ping)) = .next t :=
  ⟨_, rfl⟩

theorem witness_StatusBitsByCommand : ∃ t, exec .poll (accepted .poll 0 0 0 0 (srWith hello)) = .next t := ⟨_, rfl⟩

theorem witness_BuffersAndLogsByCommand : ∃ t, exec .push (accepted .push 0 0 0 0 sd) = .next t := ⟨_, rfl⟩

/-- RADIO_FAIL stays over a step, and RINIT sets it. -/
theorem witness_RadioFailIsSticky :
    (∃ t, step (facing .engine sf) = .next t ∧ sf.status.radioFail = true ∧
      ∀ rest, (facing .engine sf).inputs ≠ .blockReset :: rest) ∧
    (∃ t, step (accepted .rinit 0 0 0 0 sx) = .next t ∧ sx.status.radioFail = false ∧ t.status.radioFail = true) :=
  ⟨⟨_, rfl, rfl, fun _ h => nomatch h⟩, _, rfl, rfl, rfl⟩

theorem witness_LogsOnlyGrow : ∃ t, step (accepted .dinit 0 0 0 0 s0) = .next t := ⟨_, rfl⟩

/-- The marks over a step that is no reset, and over a block reset, which clears the block's mark alone. -/
theorem witness_FixedForTheLifeOfTheBlock :
    (∃ t, step (facing .engine { s0 with refused := true, refusedInRun := true }) = .next t ∧ t.refused = true ∧
      ∀ rest, (facing .engine { s0 with refused := true, refusedInRun := true }).inputs ≠ .blockReset :: rest) ∧
    ∃ t, step (facing .blockReset { s0 with refused := true, refusedInRun := true }) = .next t ∧
      t.refused = false ∧ t.refusedInRun = true :=
  ⟨⟨_, rfl, rfl, fun _ h => nomatch h⟩, _, rfl, rfl, rfl⟩

/-! ### The reference loop (60_exceptions.md R201) -/

/-- A host asleep at WAITWAKE goes on to WAKING when it reads WAKE_PENDING = 1, and to nothing else. -/
theorem test_loop_wakes :
    [true, false].map (fun w =>
      match Node.turn ⟨[], []⟩ .host
        ⟨.sleeping, [.waitWake], { s0 with status := { s0.status with wakePending := w } }⟩ with
      | .next n => some (n.loop, n.rest.length)
      | .fault _ => none
      | .refused _ => none) = [some (.waking, 1), some (.sleeping, 1)] := by decide +kernel

end Sys2Proof.Tests
end

/-! What no step writes (00_scope.md R7; 10_state.md R33, R39, R43): the frame of every command, of a host write and of
the radio's own steps, and from them what every turn keeps. -/

namespace Sys2Proof.Machine

/-! ### RADIO: no operation writes `present` -/

@[simp] theorem configured_present (r : Radio) : r.configured.present = r.present := by
  unfold Radio.configured; split <;> rfl

@[simp] theorem arrived_present (depth : Nat) (p : Payload) (r : Radio) :
    (r.arrived depth p).present = r.present := by
  unfold Radio.arrived; split <;> rfl

/-! ### Commands -/

/-- The fields of `CommandFrame` and the transceiver's presence are as they were. -/
def CommandKeeps (s t : State) : Prop := CommandFrame s t ∧ t.radio.present = s.radio.present

theorem CommandKeeps.trans {s t u : State} (h : CommandKeeps s t) (k : CommandKeeps t u) : CommandKeeps s u := by
  simp_all [CommandKeeps, CommandFrame]

theorem commandKeeps_failed (c : ErrorCode) (s : State) : CommandKeeps s (failed c s) := by
  simp [CommandKeeps, CommandFrame]

/-- The end of an engine step writes BUSY, DONE, the latch and the detector alone (R72, R171). -/
theorem CommandKeeps.completed {s t : State} (h : CommandKeeps s t) : CommandKeeps s (completed t) := h

/-- A drawing command: FB and the end of the step. -/
theorem commandKeeps_drew (f : Frame) (s : State) : CommandKeeps s (completed { s with fb := f }) := by
  simp [CommandKeeps, CommandFrame]

theorem commandKeeps_afterTransmit (p : Payload) (d : SendDraws) (s : State) :
    CommandKeeps s (afterTransmit p d s) := by
  simp [CommandKeeps, CommandFrame, afterTransmit]

theorem commandKeeps_afterAnswer (d : SendDraws) (s : State) : CommandKeeps s (afterAnswer d s) := by
  simp [CommandKeeps, CommandFrame, afterAnswer, afterTransmit]

/-- Every command, in every state and however it ends, keeps its frame and the transceiver's presence. -/
theorem exec_commandKeeps {s t : State} {i : Instr} (e : exec i s = .next t) : CommandKeeps s t := by
  have answered {u : State} (h : exec i s = .next u) (k : CommandKeeps s u) : CommandKeeps s t :=
    Host.Outcome.next.inj (h.symm.trans e) ▸ k
  cases i with
  | nop => exact answered (exec_nop s) (commandKeeps_drew s.fb s)
  | clear => exact answered (exec_clear s) (commandKeeps_drew _ s)
  | pset on => obtain ⟨l, hl, -⟩ := withLatch_next e; exact answered (exec_pset on hl) (commandKeeps_drew _ s)
  | pget =>
    obtain ⟨l, hl, -⟩ := withLatch_next e
    exact answered (exec_pget hl) (by simp [CommandKeeps, CommandFrame])
  | line on => obtain ⟨l, hl, -⟩ := withLatch_next e; exact answered (exec_line on hl) (commandKeeps_drew _ s)
  | glyph => obtain ⟨l, hl, -⟩ := withLatch_next e; exact answered (exec_glyph hl) (commandKeeps_drew _ s)
  | text src => obtain ⟨l, hl, -⟩ := withLatch_next e; exact answered (exec_text src hl) (commandKeeps_drew _ s)
  | dinit =>
    rcases exec_dinit_cases s with ⟨-, h⟩ | ⟨-, h⟩
    · exact answered h (commandKeeps_failed _ s)
    · exact answered h (by simp [CommandKeeps, CommandFrame, sendInitSeq_eq])
  | push =>
    rcases exec_push_cases s with ⟨-, h⟩ | ⟨-, h⟩
    · exact answered h (by simp [CommandKeeps, CommandFrame])
    · exact answered h (commandKeeps_failed _ s)
  | rinit =>
    rcases exec_rinit_cases s with ⟨-, h⟩ | ⟨-, h⟩
    · exact answered h (commandKeeps_failed _ s)
    · exact answered h (by simp [CommandKeeps, CommandFrame])
  | listen =>
    rcases exec_listen_next e with ⟨c, -, rfl⟩ | ⟨-, -, -, rfl⟩
    · exact commandKeeps_failed c s
    · simp [CommandKeeps, CommandFrame]
  | unlisten =>
    rcases exec_unlisten_next e with ⟨c, -, rfl⟩ | ⟨-, -, -, rfl⟩
    · exact commandKeeps_failed c s
    · simp [CommandKeeps, CommandFrame]
  | poll =>
    rcases exec_poll_next e with ⟨c, -, rfl⟩ | ⟨-, -, -, rfl⟩
    · exact commandKeeps_failed c s
    · simp [CommandKeeps, CommandFrame]
  | recv =>
    rcases exec_recv_next e with ⟨c, -, rfl⟩ | ⟨-, -, -, p, u, hu, -, rfl⟩
    · exact commandKeeps_failed c s
    · rcases hu with rfl | rfl <;> simp [CommandKeeps, CommandFrame]
  | xmit =>
    rcases exec_xmit_next e with ⟨c, -, rfl⟩ | ⟨-, -, -, d, ⟨-, rfl⟩ | ⟨-, rfl⟩⟩
    · exact commandKeeps_failed c s
    · exact (commandKeeps_afterTransmit s.txbuf d s).completed
    · have mode : CommandKeeps s (afterMode .tx s) := by simp [CommandKeeps, CommandFrame]
      exact (mode.trans (commandKeeps_afterTransmit s.txbuf d _)).completed
  | event =>
    have snapshot : CommandKeeps s (afterSnapshot s) := by simp [CommandKeeps, CommandFrame, afterSnapshot]
    rcases exec_event_next e with
      ⟨-, rfl⟩ | ⟨-, -, rfl⟩ | ⟨-, -, -, ⟨-, rfl⟩ | ⟨-, p, u, hu, -, hend⟩⟩
    · exact commandKeeps_failed .notInit s
    · simp [CommandKeeps, CommandFrame]
    · exact snapshot.completed
    · have read : CommandKeeps s { afterRead p u with msg := p } := by
        rcases hu with rfl | rfl <;> simpa [CommandKeeps, CommandFrame] using snapshot
      rcases hend with ⟨-, rfl⟩ | ⟨-, d, rfl⟩
      · exact read.completed
      · exact read.trans (commandKeeps_afterAnswer d _)
  | armwake level => exact answered (exec_armwake level s) (by simp [CommandKeeps, CommandFrame])

/-! ### Host writes -/

/-- A host write to a register reaches at most the ARG registers, CMD, STATUS, ERR, the latch, TEXT and TXBUF: with
these put back, the state is the old one (20_memory.md R60, R70, R71). -/
theorem regWrite_writesOnly (r : HostReg) (v : Word) (s : State) :
    { regWrite r v s with
      arg0 := s.arg0, arg1 := s.arg1, arg2 := s.arg2, arg3 := s.arg3, cmd := s.cmd, status := s.status, err := s.err,
      latch := s.latch, text := s.text, txbuf := s.txbuf } = s := by
  cases r with
  | cmd =>
    rcases offerCommand_cases v s with ⟨-, h⟩ | ⟨-, -, h⟩ | ⟨-, -, h⟩ | ⟨-, -, h⟩ <;> rw [regWrite, h] <;> rfl
  | text j => rw [regWrite]; split <;> rfl
  | txbuf j => rw [regWrite]; split <;> rfl
  | status => rfl
  | err => rfl
  | arg0 => rfl
  | arg1 => rfl
  | arg2 => rfl
  | arg3 => rfl
  | msg j => rfl
  | fb j => rfl

/-! ### Turns -/

/-- The parameters and the transceiver's presence are as they were, and a mark that was set is set. -/
structure KeepsFixed (s t : State) : Prop where
  params : t.params = s.params
  present : t.radio.present = s.radio.present
  refused : s.refused = true → t.refused = true
  refusedInRun : s.refusedInRun = true → t.refusedInRun = true

theorem KeepsFixed.of_same {s t : State} (hparams : t.params = s.params)
    (hpresent : t.radio.present = s.radio.present) (hrefused : t.refused = s.refused)
    (hrun : t.refusedInRun = s.refusedInRun) : KeepsFixed s t :=
  ⟨hparams, hpresent, hrefused.trans, hrun.trans⟩

theorem CommandKeeps.keepsFixed {s t : State} (h : CommandKeeps s t) : KeepsFixed s t := by
  obtain ⟨⟨-, -, -, -, -, -, -, hrefused, hrun, hparams, -, -⟩, hpresent⟩ := h
  exact .of_same hparams hpresent hrefused hrun

theorem keepsFixed_hostRead (width : Nat) (off : Offset) (s : State) : KeepsFixed s (hostRead width off s) := by
  cases hr : accessed width off with
  | none => rw [hostRead_refused s hr]; exact ⟨rfl, rfl, fun _ => rfl, fun _ => rfl⟩
  | some r => rw [hostRead_mapped s hr]; exact .of_same rfl rfl rfl rfl

theorem keepsFixed_hostWrite (width : Nat) (off : Offset) (v : Word) (s : State) :
    KeepsFixed s (hostWrite width off v s) := by
  cases hr : accessed width off with
  | none => rw [hostWrite_refused v s hr]; exact ⟨rfl, rfl, fun _ => rfl, fun _ => rfl⟩
  | some r =>
    rw [hostWrite_mapped v s hr]
    have only := regWrite_writesOnly r v s
    have hparams := congrArg State.params only
    have hpresent := congrArg (·.radio.present) only
    have hrefused := congrArg State.refused only
    have hrun := congrArg State.refusedInRun only
    exact .of_same hparams hpresent hrefused hrun

theorem keepsFixed_arrivalTurn (p : Payload) (s : State) : KeepsFixed s (arrivalTurn p s) := by
  unfold arrivalTurn
  split
  · exact .of_same rfl (arrived_present _ _ _) rfl rfl
  · exact .of_same rfl rfl rfl rfl

theorem keepsFixed_lateTurn (sent : Bool) (s : State) : KeepsFixed s (lateTurn sent s) := by
  unfold lateTurn
  split <;> exact .of_same rfl rfl rfl rfl

theorem keepsFixed_pinTurn (level : Bool) (s : State) : KeepsFixed s (pinTurn level s) := by
  unfold pinTurn
  split <;> exact .of_same rfl rfl rfl rfl

/-- Every turn of every agent but a block reset. -/
theorem takeTurn_keepsFixed {u : Turn} {s t : State} (hu : u ≠ .blockReset) (e : takeTurn u s = .next t) :
    KeepsFixed s t := by
  cases u with
  | hostRead width off => cases e; exact keepsFixed_hostRead width off s
  | hostWrite width off v => cases e; exact keepsFixed_hostWrite width off v s
  | engine =>
    rcases engineTurn_next e with ⟨-, rfl⟩ | ⟨-, l, i, -, -, h⟩
    · exact .of_same rfl rfl rfl rfl
    · exact (exec_commandKeeps h).keepsFixed
  | arrival p => cases e; exact keepsFixed_arrivalTurn p s
  | lateCompletion sent => cases e; exact keepsFixed_lateTurn sent s
  | pinNoise level => cases e; exact keepsFixed_pinTurn level s
  | blockReset => exact absurd rfl hu

/-- Settles O60: every turn but a block reset keeps all four, and of the four a block reset writes only the block's mark. -/
theorem fixedForTheLifeOfTheBlock : Obligations.FixedForTheLifeOfTheBlock := by
  intro s t e
  rcases step_next e with ⟨-, rfl⟩ | ⟨u, rest, hin, hturn⟩
  · exact ⟨rfl, rfl, fun h _ => h, id⟩
  · by_cases hu : u = .blockReset
    · subst hu
      cases hturn
      exact ⟨rfl, rfl, fun _ noReset => absurd hin (noReset rest), id⟩
    · obtain ⟨hparams, hpresent, hrefused, hrun⟩ := takeTurn_keepsFixed hu hturn
      exact ⟨hparams, hpresent, fun h _ => hrefused h, hrun⟩

end Sys2Proof.Machine

/-! The state's own rules (10_state.md): what a command has made of the state when it comes to its completion, what each
turn leaves of it, and from these the invariant of every run (R22 to R25, R27, R34, R35, R37, R40) and what R26, R29 and
R38 say of each command. -/

namespace Sys2Proof.Machine

/-! ### What a command does before it completes -/

/-- The commands that draw (40_renderer.md R108, R109, R114, R123, R128). -/
def Draws (i : Instr) : Prop :=
  i = .clear ∨ (∃ on, i = .pset on) ∨ (∃ on, i = .line on) ∨ i = .glyph ∨ ∃ src, i = .text src

/-- The gate of the radio commands is passed (42_radio_framer.md R153), and the transceiver is configured. -/
structure GateOpen (s : State) : Prop where
  init : s.status.radioInit = true
  up : s.status.radioFail = false
  cfg : s.radio.cfg = true

/-- MSG holds the payload of an RREAD (R158), and `n` draws have been taken. -/
def received (p : Payload) (n : Nat) (s : State) : State :=
  { afterRead p { s with draws := n } with msg := p }

/-- What answering a ping makes of the state before EVENT completes (R166). -/
def pingAnswered (d : SendDraws) (s : State) : State :=
  setListening true (afterMode .rx (afterTransmit pong d (setListening false (afterMode .tx (setPing true s)))))

theorem afterAnswer_eq (d : SendDraws) (s : State) : afterAnswer d s = completed (pingAnswered d s) := rfl

/-- `Performed s i u`: command `i`, begun in `s`, has made `u` of it and completes. The frame drawn, the payload read
and the draws of a transmission are left open: the lemmas on each command say more of them. -/
inductive Performed (s : State) : Instr → State → Prop where
  | nop : Performed s .nop s
  | drew {i : Instr} {f : Frame} (draws : Draws i) (zero : byteAt f 0 = byteAt s.fb 0) :
      Performed s i { s with fb := f }
  | pget (pixel : Bool) : Performed s .pget { s with status := { s.status with pixel := pixel } }
  | dinit : Performed s .dinit { sendInitSeq s with status := { s.status with dispInit := true } }
  | push : Performed s .push (busWrite s.fb.toList s)
  | rinit (first : s.status.radioInit = false) :
      Performed s .rinit
        (recordInit s.radio.present (afterCfg { s with status := { s.status with radioInit := true } }))
  | listen (gate : GateOpen s) : Performed s .listen (setListening true (afterMode .rx s))
  | unlisten (gate : GateOpen s) : Performed s .unlisten (setListening false (afterMode .tx s))
  | poll (gate : GateOpen s) :
      Performed s .poll (setEvents s.radio.fSent s.radio.fFailed s.radio.fReady (afterFlags s))
  | recv (gate : GateOpen s) (p : Payload) (n : Nat) : Performed s .recv (received p n s)
  | xmit (gate : GateOpen s) (mode : s.radio.mode = .tx) (d : SendDraws) :
      Performed s .xmit (afterTransmit s.txbuf d s)
  | xmitListening (gate : GateOpen s) (d : SendDraws) : Performed s .xmit (afterTransmit s.txbuf d (afterMode .tx s))
  | eventDown : Performed s .event (setPing false (setEvents false false false s))
  | event (gate : GateOpen s) : Performed s .event (afterSnapshot s)
  | eventRead (gate : GateOpen s) (p : Payload) (n : Nat) : Performed s .event (received p n (afterSnapshot s))
  | eventPing (gate : GateOpen s) (p : Payload) (n : Nat) (d : SendDraws) :
      Performed s .event (pingAnswered d (received p n (afterSnapshot s)))
  | armwake (level : Bool) :
      Performed s (.armwake level)
        { s with
          status := { s.status with wakeLevel := level, wakePending := false, wakeArmed := true }
          irqPrev := irqLevel s.radio }

/-- A command answers a next state by raising an engine error, or by doing its work and completing (R72, R190). -/
def Ends (s : State) (i : Instr) (t : State) : Prop :=
  (∃ c, c ≠ .noError ∧ t = failed c s) ∨ ∃ u, Performed s i u ∧ t = completed u

theorem Ends.of_gateErrors {s t : State} {i : Instr} (h : ∃ c ∈ [ErrorCode.notInit, .radioDown], t = failed c s) :
    Ends s i t := by
  obtain ⟨c, hc, rfl⟩ := h
  exact .inl ⟨c, by rintro rfl; simp at hc, rfl⟩

/-- An RREAD from `s` is a `received`, whether or not its bytes were drawn. -/
theorem received_of_read {s u : State} (p : Payload) (hu : u = s ∨ u = drawn s) :
    ∃ n, { afterRead p u with msg := p } = received p n s := by
  rcases hu with rfl | rfl
  · exact ⟨u.draws, rfl⟩
  · exact ⟨s.draws + 1, rfl⟩

/-- Everything a command can do. -/
theorem exec_ends {s t : State} {i : Instr} (e : exec i s = .next t) : Ends s i t := by
  have raised {c : ErrorCode} (hc : c ≠ .noError) (h : exec i s = .next (failed c s)) : Ends s i t :=
    .inl ⟨c, hc, Host.Outcome.next.inj (e.symm.trans h)⟩
  have worked {u : State} (hu : Performed s i u) (h : exec i s = .next (completed u)) : Ends s i t :=
    .inr ⟨u, hu, Host.Outcome.next.inj (e.symm.trans h)⟩
  cases i with
  | nop => exact worked .nop (exec_nop s)
  | clear => exact worked (.drew (.inl rfl) (byteAt_clearPixels _ _)) (exec_clear s)
  | pset on =>
    obtain ⟨l, hl, -⟩ := withLatch_next e
    exact worked (.drew (by simp [Draws]) (byteAt_setPix_zero _ _ _ _)) (exec_pset on hl)
  | pget =>
    obtain ⟨l, hl, -⟩ := withLatch_next e
    exact worked (.pget _) (exec_pget hl)
  | line on =>
    obtain ⟨l, hl, -⟩ := withLatch_next e
    exact worked (.drew (by simp [Draws]) (byteAt_setCells_zero _ _ _)) (exec_line on hl)
  | glyph =>
    obtain ⟨l, hl, -⟩ := withLatch_next e
    exact worked (.drew (by simp [Draws]) (byteAt_glyphAt_zero _ _ _ _ _)) (exec_glyph hl)
  | text src =>
    obtain ⟨l, hl, -⟩ := withLatch_next e
    exact worked (.drew (by simp [Draws]) (byteAt_drawText_zero _ _ _ _ _)) (exec_text src hl)
  | dinit =>
    rcases exec_dinit_cases s with ⟨-, h⟩ | ⟨-, h⟩
    · exact raised (by simp) h
    · exact worked .dinit h
  | push =>
    rcases exec_push_cases s with ⟨-, h⟩ | ⟨-, h⟩
    · exact worked .push h
    · exact raised (by simp) h
  | rinit =>
    rcases exec_rinit_cases s with ⟨-, h⟩ | ⟨first, h⟩
    · exact raised (by simp) h
    · exact worked (.rinit first) h
  | listen =>
    rcases exec_listen_next e with h | ⟨hi, hf, hc, rfl⟩
    · exact .of_gateErrors h
    · exact .inr ⟨_, .listen ⟨hi, hf, hc⟩, rfl⟩
  | unlisten =>
    rcases exec_unlisten_next e with h | ⟨hi, hf, hc, rfl⟩
    · exact .of_gateErrors h
    · exact .inr ⟨_, .unlisten ⟨hi, hf, hc⟩, rfl⟩
  | poll =>
    rcases exec_poll_next e with h | ⟨hi, hf, hc, rfl⟩
    · exact .of_gateErrors h
    · exact .inr ⟨_, .poll ⟨hi, hf, hc⟩, rfl⟩
  | recv =>
    rcases exec_recv_next e with h | ⟨hi, hf, hc, p, u, hu, -, rfl⟩
    · exact .of_gateErrors h
    · obtain ⟨n, hn⟩ := received_of_read p hu
      exact .inr ⟨_, .recv ⟨hi, hf, hc⟩ p n, by rw [hn]⟩
  | xmit =>
    rcases exec_xmit_next e with h | ⟨hi, hf, hc, d, ⟨mode, rfl⟩ | ⟨-, rfl⟩⟩
    · exact .of_gateErrors h
    · exact .inr ⟨_, .xmit ⟨hi, hf, hc⟩ mode d, rfl⟩
    · exact .inr ⟨_, .xmitListening ⟨hi, hf, hc⟩ d, rfl⟩
  | event =>
    rcases exec_event_next e with
      ⟨-, rfl⟩ | ⟨-, -, rfl⟩ | ⟨hi, hf, hc, ⟨-, rfl⟩ | ⟨-, p, u, hu, -, hend⟩⟩
    · exact .inl ⟨.notInit, nofun, rfl⟩
    · exact .inr ⟨_, .eventDown, rfl⟩
    · exact .inr ⟨_, .event ⟨hi, hf, hc⟩, rfl⟩
    · obtain ⟨n, hn⟩ := received_of_read p hu
      rcases hend with ⟨-, rfl⟩ | ⟨-, d, rfl⟩
      · exact .inr ⟨_, .eventRead ⟨hi, hf, hc⟩ p n, by rw [hn]⟩
      · exact .inr ⟨_, .eventPing ⟨hi, hf, hc⟩ p n d, by rw [hn, afterAnswer_eq]⟩
  | armwake level => exact worked (.armwake level) (exec_armwake level s)

/-! ### What each command writes -/

/-- Settles O55: the frame every command keeps, with the transceiver's presence left out. -/
theorem everyCommandKeepsItsFrame : Obligations.EveryCommandKeepsItsFrame :=
  fun _ _ _ e => (exec_commandKeeps e).1

/-- Settles O56: an engine error writes none of these bits, and a command's work only those of its row. -/
theorem statusBitsByCommand : Obligations.StatusBitsByCommand := by
  intro s t i e
  rcases exec_ends e with ⟨c, -, rfl⟩ | ⟨u, hu, rfl⟩
  · simp
  · cases hu <;> simp [received, afterTransmit, pingAnswered, afterSnapshot]

/-- Settles O57: an engine error writes none of the buffers and logs, and a command's work only its own. -/
theorem buffersAndLogsByCommand : Obligations.BuffersAndLogsByCommand := by
  intro s t i e
  rcases exec_ends e with ⟨c, -, rfl⟩ | ⟨u, hu, rfl⟩
  · simp
  · cases hu with
    | drew draws => rcases draws with rfl | ⟨on, rfl⟩ | ⟨on, rfl⟩ | rfl | ⟨src, rfl⟩ <;> simp
    | dinit => simp [sendInitSeq_eq]
    | _ => simp [received, afterTransmit, pingAnswered, afterSnapshot]

/-- No command writes FB[0] (R27): the drawing commands write bytes 1 to 512 only, and the others not FB. -/
theorem exec_prefixByte {s t : State} {i : Instr} (e : exec i s = .next t) : byteAt t.fb 0 = byteAt s.fb 0 := by
  rcases exec_ends e with ⟨c, -, rfl⟩ | ⟨u, hu, rfl⟩
  · simp
  · cases hu with
    | drew _ zero => exact zero
    | dinit => simp [sendInitSeq_eq]
    | _ => simp [received, afterTransmit, pingAnswered, afterSnapshot]

/-! ### What each turn keeps -/

/-- A host write to a register leaves FB as it was: its window is read-only (20_memory.md R62). -/
theorem regWrite_fb (r : HostReg) (v : Word) (s : State) : (regWrite r v s).fb = s.fb := by
  have only := regWrite_writesOnly r v s
  have hfb := congrArg State.fb only
  exact hfb

/-- A host write to a register leaves RADIO_FAIL as it was (10_state.md R23). -/
theorem regWrite_radioFail (r : HostReg) (v : Word) (s : State) :
    (regWrite r v s).status.radioFail = s.status.radioFail := by
  cases r with
  | cmd => rcases offerCommand_cases v s with ⟨-, h⟩ | ⟨-, -, h⟩ | ⟨-, -, h⟩ | ⟨-, -, h⟩ <;> rw [regWrite, h] <;> rfl
  | text j => rw [regWrite]; split <;> rfl
  | txbuf j => rw [regWrite]; split <;> rfl
  | _ => rfl

/-- A turn of the host or the radio leaves FB and RADIO_FAIL as they were. -/
theorem takeTurn_fb_radioFail {u : Turn} {s t : State} (engine : u ≠ .engine) (reset : u ≠ .blockReset)
    (e : takeTurn u s = .next t) : t.fb = s.fb ∧ t.status.radioFail = s.status.radioFail := by
  cases u with
  | hostRead width off =>
    cases e
    cases hr : accessed width off with
    | none => rw [hostRead_refused s hr]; exact ⟨rfl, rfl⟩
    | some r => rw [hostRead_mapped s hr]; exact ⟨rfl, rfl⟩
  | hostWrite width off v =>
    cases e
    cases hr : accessed width off with
    | none => rw [hostWrite_refused v s hr]; exact ⟨rfl, rfl⟩
    | some r => rw [hostWrite_mapped v s hr]; exact ⟨regWrite_fb r v s, regWrite_radioFail r v s⟩
  | engine => exact absurd rfl engine
  | arrival p => cases e; rw [arrivalTurn]; split <;> exact ⟨rfl, rfl⟩
  | lateCompletion sent => cases e; rw [lateTurn]; split <;> exact ⟨rfl, rfl⟩
  | pinNoise level => cases e; rw [pinTurn]; split <;> exact ⟨rfl, rfl⟩
  | blockReset => exact absurd rfl reset

/-- FB[0] at a reset, whatever the draw (10_state.md R27). -/
theorem byteAt_fbAtReset_zero (d : Nat) : byteAt (fbAtReset d) 0 = Config.dataPrefix := by
  simp [fbAtReset, byteAt_bufOf]

theorem takeTurn_prefixByte {u : Turn} {s t : State} (hs : PrefixInv s) (e : takeTurn u s = .next t) : PrefixInv t := by
  by_cases engine : u = .engine
  · subst engine
    rcases engineTurn_next e with ⟨-, rfl⟩ | ⟨-, _, _, -, -, h⟩
    · exact hs
    · exact (exec_prefixByte h).trans hs
  · by_cases reset : u = .blockReset
    · subst reset; cases e; exact byteAt_fbAtReset_zero _
    · obtain ⟨hfb, -⟩ := takeTurn_fb_radioFail engine reset e
      exact (congrArg (byteAt · 0) hfb).trans hs

/-- Settles O54: a reset writes DATA_PREFIX to FB[0], and nothing else writes there. -/
theorem prefixByteIsFixed : Obligations.PrefixByteIsFixed := by
  refine ⟨byteAt_fbAtReset_zero 0, ?_, fun _ _ _ => exec_prefixByte⟩
  intro s t hs e
  rcases step_next e with ⟨-, rfl⟩ | ⟨u, rest, -, hturn⟩
  · exact hs
  · exact takeTurn_prefixByte (s := { s with inputs := rest }) hs hturn

/-! ### RADIO_FAIL (R34) -/

theorem withReserved_ok {reserved w : Word} {i j : Instr} (h : withReserved reserved w i = .ok j) :
    w &&& reserved = 0#32 ∧ i = j := by
  unfold withReserved at h
  split at h
  · cases h; exact ⟨‹_›, rfl⟩
  · cases h

/-- A word with 0 above OP is its OP (30_encoding.md R85). -/
theorem word_of_opField {w : Word} (h : w &&& reservedAll = 0#32) : w = BitVec.ofNat 32 (opField w) := by
  have above : ∀ k < 32, 8 ≤ k → reservedAll.getLsbD k = true := by decide
  have low : w = (w.extractLsb' 0 8).setWidth 32 := by
    apply BitVec.eq_of_getLsbD_eq
    intro k hk
    by_cases hop : k < 8
    · simp [hop, hk]
    · have zero := congrArg (·.getLsbD k) h
      simpa [above k hk (by omega), hop] using zero
  exact low.trans (BitVec.ofNat_toNat 32 _).symm

/-- Only the table's row of OP 0x30 answers RINIT (30_encoding.md R86). -/
theorem decode_rinit {w : Word} (h : decode w = .ok .rinit) : w = encode .rinit := by
  unfold decode at h
  split at h
  case h_10 op =>
    rw [word_of_opField (withReserved_ok h).1, op]
    rfl
  case h_18 => cases h
  all_goals exact absurd (withReserved_ok h).2 nofun

/-- RINIT sets RADIO_FAIL when it finds no transceiver, and nothing else a command does writes it (R38). -/
theorem exec_radioFail {s t : State} {i : Instr} (e : exec i s = .next t) :
    t.status.radioFail = s.status.radioFail ∨
      (i = .rinit ∧ s.radio.present = false ∧ t.status.radioFail = true) := by
  by_cases hi : i = .rinit
  · subst hi
    rcases exec_rinit_cases s with ⟨-, h⟩ | ⟨-, h⟩
    · cases e.symm.trans h; exact .inl rfl
    · cases e.symm.trans h
      cases hp : s.radio.present <;> simp
  · obtain ⟨-, -, -, -, kept, -⟩ := statusBitsByCommand s t i e
    exact .inl (kept hi).2

/-- Every turn but a block reset keeps RADIO_FAIL, or is the engine's at an RINIT that finds no transceiver. -/
theorem takeTurn_radioFail {u : Turn} {s t : State} (reset : u ≠ .blockReset) (e : takeTurn u s = .next t) :
    t.status.radioFail = s.status.radioFail ∨
      (t.status.radioFail = true ∧ u = .engine ∧ s.radio.present = false ∧
        ∃ l, s.latch = some l ∧ l.word = encode .rinit) := by
  by_cases engine : u = .engine
  · subst engine
    rcases engineTurn_next e with ⟨-, rfl⟩ | ⟨-, l, i, hl, hd, h⟩
    · exact .inl rfl
    · rcases exec_radioFail h with kept | ⟨rfl, absent, set⟩
      · exact .inl kept
      · exact .inr ⟨set, rfl, absent, l, hl, decode_rinit hd⟩
  · exact .inl (takeTurn_fb_radioFail engine reset e).2

/-- Settles O58: only a block reset clears RADIO_FAIL, and only RINIT sets it. -/
theorem radioFailIsSticky : Obligations.RadioFailIsSticky := by
  intro s t e
  rcases step_next e with ⟨-, rfl⟩ | ⟨u, rest, hin, hturn⟩
  · exact ⟨fun h _ => h, fun h h' => absurd (h.symm.trans h') nofun⟩
  · by_cases reset : u = .blockReset
    · subst reset
      cases hturn
      exact ⟨fun _ noReset => absurd hin (noReset rest), fun _ => nofun⟩
    · rcases takeTurn_radioFail reset hturn with kept | ⟨set, rfl, absent, l, hl, hw⟩
      · exact ⟨fun h _ => kept.trans h, fun h h' => absurd ((kept.trans h).symm.trans h') nofun⟩
      · exact ⟨fun _ _ => set, fun _ _ => ⟨rest, l, hin, hl, hw, absent⟩⟩

/-! ### The invariant (R22 to R25, R27, R34, R35, R37, R40) -/

/-- The transceiver as the radio commands find and leave it behind their gate: present, configured and on, STATUS in
agreement. `LISTENING` is not among it, because a command sets the mode and LISTENING one after the other. -/
structure Linked (s : State) : Prop where
  init : s.status.radioInit = true
  up : s.status.radioFail = false
  present : s.radio.present = true
  cfg : s.radio.cfg = true
  on : s.radio.mode ≠ .off
  queue : s.radio.rxq.length ≤ s.params.rxDepth

theorem GateOpen.linked {s : State} (gate : GateOpen s) (hr : RadioInv s) : Linked s := by
  obtain ⟨absent, -, on, queue⟩ := hr
  have present : s.radio.present = true := by
    by_contra h
    exact absurd (gate.cfg.symm.trans (absent (by simpa using h))) nofun
  exact ⟨gate.init, gate.up, present, gate.cfg, on gate.cfg, queue⟩

theorem GateOpen.listening {s : State} (gate : GateOpen s) (hl : LinkInv s) :
    s.status.listening = true ↔ s.radio.mode = .rx := by
  obtain ⟨-, -, linked⟩ := hl
  rw [(linked gate.init gate.up).2, decide_eq_true_iff]

/-- Behind the gate, RADIO and STATUS agree when LISTENING shows the mode (R35). -/
theorem Linked.agree {s : State} (h : Linked s) (listening : s.status.listening = true ↔ s.radio.mode = .rx) :
    RadioInv s ∧ LinkInv s := by
  obtain ⟨init, up, present, cfg, on, queue⟩ := h
  have shown : s.status.listening = decide (s.radio.mode = .rx) := by
    rw [Bool.eq_iff_iff, listening, decide_eq_true_iff]
  simp_all [RadioInv, LinkInv]

theorem Linked.afterMode {s : State} (h : Linked s) (m : LinkMode) : Linked (afterMode m s) :=
  { h with on := by cases m <;> exact nofun }

theorem Linked.setListening {s : State} (h : Linked s) (b : Bool) : Linked (setListening b s) := { h with }

theorem Linked.setEvents {s : State} (h : Linked s) (sent failed ready : Bool) :
    Linked (setEvents sent failed ready s) := { h with }

theorem Linked.setPing {s : State} (h : Linked s) (b : Bool) : Linked (setPing b s) := { h with }

theorem Linked.afterFlags {s : State} (h : Linked s) : Linked (afterFlags s) := { h with }

theorem Linked.afterSnapshot {s : State} (h : Linked s) : Linked (afterSnapshot s) :=
  (h.afterFlags.setEvents _ _ _).setPing false

theorem Linked.received {s : State} (h : Linked s) (p : Payload) (n : Nat) : Linked (received p n s) :=
  { h with queue := (List.tail_sublist _).length_le.trans h.queue }

theorem Linked.afterTransmit {s : State} (h : Linked s) (p : Payload) (d : SendDraws) :
    Linked (afterTransmit p d s) where
  init := h.init
  up := h.up
  present := (sent_present d s.radio).trans h.present
  cfg := (sent_cfg d s.radio).trans h.cfg
  on := (sent_mode d s.radio).trans_ne h.on
  queue := (congrArg List.length (sent_rxq d s.radio)).trans_le h.queue

theorem Linked.pingAnswered {s : State} (h : Linked s) (d : SendDraws) : Linked (pingAnswered d s) :=
  (((((h.setPing true).afterMode .tx).setListening false).afterTransmit pong d).afterMode .rx).setListening true

/-- RINIT configures a present transceiver and listens, or finds none and says so (R34, 42_radio_framer.md R152). -/
theorem rinit_agree {s : State} (hr : RadioInv s) (hl : LinkInv s) (first : s.status.radioInit = false) :
    let u := recordInit s.radio.present (afterCfg { s with status := { s.status with radioInit := true } })
    RadioInv u ∧ LinkInv u := by
  obtain ⟨absent, off, on, queue⟩ := hr
  obtain ⟨unknown, -, -⟩ := hl
  obtain ⟨up, -⟩ := unknown first
  cases present : s.radio.present
  · have cfg := absent present
    simp_all [RadioInv, LinkInv, Radio.configured]
  · simp [RadioInv, LinkInv, Radio.configured, present, up]

/-- A command's work keeps the transceiver's clauses (R34, R35, R40). -/
theorem Performed.agree {s u : State} {i : Instr} (h : Performed s i u) (hr : RadioInv s) (hl : LinkInv s) :
    RadioInv u ∧ LinkInv u := by
  cases h with
  | rinit first => exact rinit_agree hr hl first
  | listen gate => exact (((gate.linked hr).afterMode .rx).setListening true).agree (by simp [LinkMode.mode])
  | unlisten gate => exact (((gate.linked hr).afterMode .tx).setListening false).agree (by simp [LinkMode.mode])
  | poll gate =>
    exact ((gate.linked hr).afterFlags.setEvents _ _ _).agree (by simpa using gate.listening hl)
  | recv gate p n => exact ((gate.linked hr).received p n).agree (by simpa [received] using gate.listening hl)
  | xmit gate mode d =>
    exact ((gate.linked hr).afterTransmit s.txbuf d).agree (by simp [afterTransmit, mode])
  | xmitListening gate d =>
    exact (((gate.linked hr).afterMode .tx).afterTransmit s.txbuf d).agree (by simp [afterTransmit, LinkMode.mode])
  | event gate => exact (gate.linked hr).afterSnapshot.agree (by simpa [afterSnapshot] using gate.listening hl)
  | eventRead gate p n =>
    exact ((gate.linked hr).afterSnapshot.received p n).agree
      (by simpa [received, afterSnapshot] using gate.listening hl)
  | eventPing gate p n d =>
    exact (((gate.linked hr).afterSnapshot.received p n).pingAnswered d).agree
      (by simp [pingAnswered, LinkMode.mode])
  | dinit => simpa [sendInitSeq_eq] using ⟨hr, hl⟩
  | _ => exact ⟨hr, hl⟩

/-- An evaluation of the detector that makes it pending disarms it (42_radio_framer.md R171). -/
theorem wakeInv_detect {s : State} (h : WakeInv s) : WakeInv (detect s) := by
  rintro ⟨armed, pending⟩
  rw [detect_wakeArmed, Bool.and_eq_true, Bool.not_eq_true'] at armed
  obtain ⟨armed, silent⟩ := armed
  rw [detect_wakePending, silent, Bool.or_false] at pending
  exact h ⟨armed, pending⟩

theorem wakeInv_afterMode {s : State} (h : WakeInv s) (m : LinkMode) : WakeInv (afterMode m s) := wakeInv_detect h

theorem wakeInv_afterSnapshot {s : State} (h : WakeInv s) : WakeInv (afterSnapshot s) := wakeInv_detect h

theorem wakeInv_received {s : State} (h : WakeInv s) (p : Payload) (n : Nat) : WakeInv (received p n s) :=
  wakeInv_detect h

theorem wakeInv_afterTransmit {s : State} (h : WakeInv s) (p : Payload) (d : SendDraws) :
    WakeInv (afterTransmit p d s) := wakeInv_detect h

theorem wakeInv_pingAnswered {s : State} (h : WakeInv s) (d : SendDraws) : WakeInv (pingAnswered d s) :=
  have asked : WakeInv (afterMode .tx (setPing true s)) := wakeInv_detect h
  have sent : WakeInv (afterTransmit pong d (setListening false (afterMode .tx (setPing true s)))) :=
    wakeInv_detect asked
  wakeInv_afterMode sent .rx

/-- A command's work keeps the detector's clause: ARMWAKE clears WAKE_PENDING as it arms (42_radio_framer.md R170). -/
theorem Performed.wakeInv {s u : State} {i : Instr} (h : Performed s i u) (hs : WakeInv s) : WakeInv u := by
  cases h with
  | dinit => simpa [sendInitSeq_eq] using hs
  | rinit => exact wakeInv_detect hs
  | listen => exact wakeInv_afterMode hs .rx
  | unlisten => exact wakeInv_afterMode hs .tx
  | poll => exact wakeInv_detect hs
  | recv _ p n => exact wakeInv_received hs p n
  | xmit _ _ d => exact wakeInv_afterTransmit hs s.txbuf d
  | xmitListening _ d => exact wakeInv_afterTransmit (wakeInv_afterMode hs .tx) s.txbuf d
  | event => exact wakeInv_afterSnapshot hs
  | eventRead _ p n => exact wakeInv_received (wakeInv_afterSnapshot hs) p n
  | eventPing _ p n d => exact wakeInv_pingAnswered (wakeInv_received (wakeInv_afterSnapshot hs) p n) d
  | armwake => simp [WakeInv]
  | _ => exact hs

/-- No command's work writes ERR: only an engine error does, and it ends the command (60_exceptions.md R190). -/
theorem Performed.err {s u : State} {i : Instr} (h : Performed s i u) : u.err = s.err := by
  cases h <;> simp [received, afterTransmit, pingAnswered, afterSnapshot, sendInitSeq_eq]

theorem errInv_record {c : ErrorCode} {e : Err} (hc : c ≠ .noError) : (Err.record c e).code ≠ .noError := by
  rw [record_code]
  split <;> assumption

/-- With `irq_prev` put at the pin level, an evaluation of the detector touches only the detector's clause. -/
theorem inv_detect {s : State} (h : Inv { s with irqPrev := irqLevel s.radio }) : Inv (detect s) :=
  { h with
    wake := wakeInv_detect (s := s) h.wake
    settled := settled_detect s }

/-- Every command keeps the invariant. -/
theorem exec_inv {s t : State} {i : Instr} (hs : Inv s) (e : exec i s = .next t) : Inv t := by
  obtain ⟨⟨-, -, -, -, hcmd, -, -, hrefused, hrun, hparams, -, -⟩, -⟩ := exec_commandKeeps e
  have hprefix := exec_prefixByte e
  rcases exec_ends e with ⟨c, hc, rfl⟩ | ⟨u, hu, rfl⟩
  · exact inv_detect { hs with latch := ⟨rfl, nofun⟩, err := fun _ => errInv_record hc, settled := rfl }
  · obtain ⟨hradio, hlink⟩ := hu.agree hs.radio hs.link
    exact inv_detect {
      latch := ⟨rfl, nofun⟩
      cmd := (congrArg isCommand hcmd).trans hs.cmd
      fbPrefix := hprefix.trans hs.fbPrefix
      err := by simpa [hu.err] using hs.err
      settled := rfl
      wake := hu.wakeInv hs.wake
      radio := hradio
      link := hlink
      params := (congrArg Params.wf hparams).trans hs.params
      mark := fun h => hrun.trans (hs.mark (hrefused.symm.trans h)) }

/-- No clause of the invariant speaks of ARG0 to ARG3, TEXT, TXBUF, the turns to come or the host's last read. -/
theorem Inv.of_unread {s : State} (hs : Inv s) (a0 a1 a2 a3 : BitVec 16) (text : Buf Config.textLen) (txbuf : Payload)
    (inputs : List Turn) (hostData : Option Word) :
    Inv { s with
      arg0 := a0, arg1 := a1, arg2 := a2, arg3 := a3, text := text, txbuf := txbuf, inputs := inputs
      hostData := hostData } :=
  { hs with }

/-- An access that R63 refuses sets the two marks together. -/
theorem inv_refuseAccess {s : State} (hs : Inv s) : Inv (refuseAccess s) := { hs with mark := fun _ => rfl }

theorem inv_raiseErr {s : State} {c : ErrorCode} (hs : Inv s) (hc : c ≠ .noError) : Inv (raiseErr c s) :=
  { hs with err := fun _ => errInv_record hc }

/-- A command offered is latched, with CMD showing it, or raises an error (20_memory.md R70). -/
theorem inv_offerCommand {s : State} (hs : Inv s) (w : Word) : Inv (offerCommand w s) := by
  rcases offerCommand_cases w s with ⟨-, h⟩ | ⟨-, -, h⟩ | ⟨-, -, h⟩ | ⟨-, legal, h⟩ <;> rw [h]
  · exact inv_raiseErr hs nofun
  · exact inv_raiseErr hs nofun
  · exact inv_raiseErr hs nofun
  · exact { hs with latch := ⟨rfl, fun _ => rfl⟩, cmd := legal }

/-- Writing ones to STATUS clears DONE and WAKE_PENDING and sets neither (R23). -/
theorem inv_writeStatus {s : State} (hs : Inv s) (v : Word) : Inv (writeStatus v s) where
  __ := hs
  latch := ⟨hs.latch.1, fun busy => by simp [hs.latch.2 busy]⟩
  wake := by
    rintro ⟨armed, pending⟩
    rw [writeStatus_wakePending, Bool.and_eq_true] at pending
    exact hs.wake ⟨armed, pending.1⟩

theorem inv_regWrite {s : State} (hs : Inv s) (r : HostReg) (v : Word) : Inv (regWrite r v s) := by
  cases r with
  | cmd => exact inv_offerCommand hs v
  | status => exact inv_writeStatus hs v
  | err => exact { hs with err := nofun }
  | text j => rw [regWrite]; split; exacts [inv_raiseErr hs nofun, hs.of_unread ..]
  | txbuf j => rw [regWrite]; split; exacts [inv_raiseErr hs nofun, hs.of_unread ..]
  | msg j => exact hs
  | fb j => exact hs
  | _ => exact hs.of_unread ..

/-- A state of the invariant is settled already, so that evaluating the detector keeps it. -/
theorem Inv.detect {s : State} (hs : Inv s) : Inv (detect s) := by
  rwa [detect_of_settled hs.settled]

theorem inv_hostRead {s : State} (hs : Inv s) (width : Nat) (off : Offset) : Inv (hostRead width off s) := by
  cases hr : accessed width off with
  | none => rw [hostRead_refused s hr]; exact inv_refuseAccess (hs.of_unread ..)
  | some r => rw [hostRead_mapped s hr]; exact (hs.of_unread ..).detect

theorem inv_hostWrite {s : State} (hs : Inv s) (width : Nat) (off : Offset) (v : Word) :
    Inv (hostWrite width off v s) := by
  cases hr : accessed width off with
  | none => rw [hostWrite_refused v s hr]; exact inv_refuseAccess hs
  | some r => rw [hostWrite_mapped v s hr]; exact (inv_regWrite hs r v).detect

/-- A packet finds room in the queue of a configured transceiver, or is lost (42_radio_framer.md R172). -/
theorem inv_arrivalTurn {s : State} (hs : Inv s) (p : Payload) : Inv (arrivalTurn p s) := by
  unfold arrivalTurn Radio.arrived
  split
  · rename_i listening
    obtain ⟨-, cfg, -⟩ := listening
    split
    · rename_i room
      obtain ⟨absent, -, on, -⟩ := hs.radio
      have queue : (s.radio.rxq ++ [p]).length ≤ s.params.rxDepth := by simpa using room
      exact inv_detect { hs with
        settled := rfl, radio := ⟨absent, fun off => absurd (cfg.symm.trans off) nofun, on, queue⟩ }
    · exact inv_detect { hs with settled := rfl }
  · exact hs

/-- A send in flight is a configured transceiver's, which may latch a flag (R173). -/
theorem inv_lateTurn {s : State} (hs : Inv s) (sent : Bool) : Inv (lateTurn sent s) := by
  unfold lateTurn
  split
  · rename_i inFlight
    obtain ⟨absent, off, on, queue⟩ := hs.radio
    have cfg : s.radio.cfg = false → False := fun h => by simp [off h] at inFlight
    exact inv_detect { hs with settled := rfl, radio := ⟨absent, fun h => (cfg h).elim, on, queue⟩ }
  · exact hs

theorem inv_pinTurn {s : State} (hs : Inv s) (level : Bool) : Inv (pinTurn level s) := by
  unfold pinTurn
  split
  · exact hs
  · exact inv_detect { hs with settled := rfl }

theorem isCommand_zero : isCommand 0x00000000#32 = true := by decide

/-- A reset of the block leaves the transceiver, of whose state STATUS then knows nothing (R34, R43, R45). -/
theorem inv_blockReset {s : State} (hs : Inv s) : Inv (blockReset s) where
  latch := ⟨rfl, nofun⟩
  cmd := isCommand_zero
  fbPrefix := byteAt_fbAtReset_zero _
  err := nofun
  settled := rfl
  wake := by simp [Status.reset]
  radio := hs.radio
  link := by simp [LinkInv, Status.reset]
  params := hs.params
  mark := nofun

/-- Settles O51: each turn keeps the invariant; waiting does too. -/
theorem stepKeepsInvariant : Obligations.StepKeepsInvariant := by
  intro s t hs e
  rcases step_next e with ⟨-, rfl⟩ | ⟨u, rest, -, hturn⟩
  · exact hs
  · have taken : Inv { s with inputs := rest } := hs.of_unread ..
    cases u with
    | hostRead width off => cases hturn; exact inv_hostRead taken width off
    | hostWrite width off v => cases hturn; exact inv_hostWrite taken width off v
    | engine =>
      rcases engineTurn_next hturn with ⟨-, rfl⟩ | ⟨-, _, _, -, -, h⟩
      · exact taken
      · exact exec_inv taken h
    | arrival p => cases hturn; exact inv_arrivalTurn taken p
    | lateCompletion sent => cases hturn; exact inv_lateTurn taken sent
    | pinNoise level => cases hturn; exact inv_pinTurn taken level
    | blockReset => cases hturn; exact inv_blockReset taken

/-! ### The state after power-on and reset (R43 to R45) -/

/-- `irq_prev` starts at the pin level, with a transceiver and without one (70_reset_and_hazards.md R221). -/
theorem settled_reset : Settled State.reset := by
  cases present : Config.radioPresent <;>
    simp [Settled, State.reset, Radio.powerOn, irqLevel, irqAsserted, Config.irqActiveLow, present]

theorem params_wf : Config.params.wf = true := by
  have pad : Config.glyphPadding.val ≤ 15 := Nat.le_of_lt_succ Config.glyphPadding.isLt
  simp [Params.wf, Config.params, pad]

/-- Settles O52. -/
theorem resetHasInvariant : Obligations.ResetHasInvariant where
  latch := ⟨rfl, nofun⟩
  cmd := isCommand_zero
  fbPrefix := byteAt_fbAtReset_zero 0
  err := nofun
  settled := settled_reset
  wake := by simp [State.reset, Status.reset]
  radio := by simp [RadioInv, State.reset, Radio.powerOn]
  link := by simp [LinkInv, State.reset, Status.reset]
  params := params_wf
  mark := nofun

/-- Settles O49: the values stand in `State.reset`, FB[0] and `irq_prev` by their own lemmas. -/
theorem resetLeavesStatedValues : Obligations.ResetLeavesStatedValues :=
  ⟨rfl, rfl, rfl, rfl, rfl, rfl, rfl, rfl, byteAt_fbAtReset_zero 0, settled_reset, rfl, rfl, rfl, rfl, rfl, rfl, rfl,
    rfl, rfl, rfl, rfl⟩

/-! ### Pin noise and register reads -/

/-- One evaluation of the detector after RADIO alone has changed: it has seen the new pin level (R171). -/
theorem detectorSaw_detect {s u : State} {level : Bool} (status : u.status = s.status) (prev : u.irqPrev = s.irqPrev)
    (pin : irqLevel u.radio = level) : DetectorSaw s (detect u) [level] := by
  subst pin
  cases armed : s.status.wakeArmed <;> simp [DetectorSaw, sees, detectorFires, status, prev, armed]

/-- Settles O47: without a transceiver the pin's level is `floatPin` (R42), and the detector sees it. -/
theorem pinNoiseOnlyWithoutTransceiver : Obligations.PinNoiseOnlyWithoutTransceiver := by
  intro s rest level _ hin
  constructor
  · intro absent
    have hstep : step s =
        .next (detect { s with inputs := rest, radio := { s.radio with floatPin := level } }) := by
      simp [step, hin, takeTurn, pinTurn, absent]
    have pin : irqLevel { s.radio with floatPin := level } = level := by simp [irqLevel, absent]
    exact ⟨_, hstep, rfl, pin, detectorSaw_detect rfl rfl pin, rfl⟩
  · intro present
    simp [step, hin, takeTurn, pinTurn, present]

/-- A read of a mapped register answers its value (20_memory.md R60, R62). -/
theorem step_hostRead {s : State} {rest : List Turn} {off : Offset} {r : HostReg}
    (hin : s.inputs = .hostRead 32 off :: rest) (hr : hostReg off = some r) :
    ∃ t, step s = .next t ∧ t.hostData = some (regRead r s) := by
  have mapped : accessed 32 off = some r := hr
  refine ⟨detect { s with inputs := rest, hostData := some (regRead r s) }, ?_, rfl⟩
  simp only [step, hin, takeTurn, hostRead_mapped _ mapped]
  cases r <;> rfl

/-- ERR as the host reads it, bit by bit (R24): CODE in bits 3:0, MORE in bit 4, then zeros. -/
theorem errWord_bit (e : Err) (k : Nat) :
    (errWord e).getLsbD k = if k < 4 then e.code.number.getLsbD k else (k == 4 && e.more) := by
  change BitVec.getLsbD (w := 27 + 1 + 4) (0#27 ++ BitVec.ofBool e.more ++ e.code.number) k = _
  simp only [BitVec.getLsbD_append, BitVec.getLsbD_ofBool]
  rcases lt_trichotomy k 4 with code | rfl | above
  · simp [code]
  · simp
  · simp [show ¬k < 4 by omega, show ¬k - 4 < 1 by omega, show k ≠ 4 by omega]

theorem errWord_code (e : Err) : (errWord e).extractLsb' 0 4 = e.code.number := by
  apply BitVec.eq_of_getLsbD_eq
  intro k hk
  simp [errWord_bit, hk]

theorem argWord_low (v : BitVec 16) : (argWord v).extractLsb' 0 16 = v := by
  apply BitVec.eq_of_toNat_eq
  simp [argWord, v.isLt]

/-- A read of an ARG register answers its 16 bits in bits 15:0 (R21). -/
theorem step_readArg {s : State} {rest : List Turn} {off : Offset} {r : HostReg} {v : BitVec 16}
    (hin : s.inputs = .hostRead 32 off :: rest) (hr : hostReg off = some r) (hv : regRead r s = argWord v) :
    ∃ t w, step s = .next t ∧ t.hostData = some w ∧ w.extractLsb' 0 16 = v := by
  obtain ⟨t, hstep, hdata⟩ := step_hostRead hin hr
  exact ⟨t, _, hstep, hdata, by rw [hv, argWord_low]⟩

/-- Settles O11: each register's read is its word, whose bits are its fields. -/
theorem registerReadsReturnTheirFields : Obligations.RegisterReadsReturnTheirFields := by
  intro s rest off hin
  refine ⟨?_, ?_, ?_, ?_, ?_, ?_, ?_⟩ <;> rintro rfl
  · exact step_hostRead hin (r := .cmd) rfl
  · obtain ⟨t, hstep, hdata⟩ := step_hostRead hin (r := .status) rfl
    refine ⟨t, _, hstep, hdata, ?_⟩
    simp only [regRead, statusWord_bit, statusBits]
    exact ⟨rfl, rfl, rfl, rfl, rfl, rfl, rfl, rfl, rfl, rfl, rfl, rfl, rfl, rfl, rfl,
      fun k hk => List.getD_eq_default _ _ hk⟩
  · obtain ⟨t, hstep, hdata⟩ := step_hostRead hin (r := .err) rfl
    refine ⟨t, _, hstep, hdata, ?_, ?_, fun k hk => ?_⟩
    · rw [regRead, errWord_code]
      cases s.err.code <;> rfl
    · exact errWord_bit s.err 4
    · rw [regRead, errWord_bit, if_neg (by omega), beq_false_of_ne (by omega), Bool.false_and]
  · exact step_readArg hin (r := .arg0) rfl rfl
  · exact step_readArg hin (r := .arg1) rfl rfl
  · exact step_readArg hin (r := .arg2) rfl rfl
  · exact step_readArg hin (r := .arg3) rfl rfl

end Sys2Proof.Machine

/-! The register window and the turns (20_memory.md): the logs over every turn, the engine's turn, the register map and
what each of its windows holds, and a host access in a settled state. -/

namespace Sys2Proof.Machine

/-! ### The logs (R73) -/

/-- Both logs of `s` stand at the front of `t`'s. -/
structure LogsGrow (s t : State) : Prop where
  dlog : s.dlog <+: t.dlog
  rlog : s.rlog <+: t.rlog

theorem LogsGrow.of_same {s t : State} (hd : t.dlog = s.dlog) (hr : t.rlog = s.rlog) : LogsGrow s t :=
  ⟨hd ▸ List.prefix_rfl, hr ▸ List.prefix_rfl⟩

/-- A command's work appends to the logs and takes nothing back. -/
theorem Performed.logsGrow {s u : State} {i : Instr} (h : Performed s i u) : LogsGrow s u := by
  have appended : s.dlog <+: u.dlog ∧ s.rlog <+: u.rlog := by
    cases h <;> simp [sendInitSeq_eq, received, afterTransmit, pingAnswered, afterSnapshot]
  obtain ⟨hdlog, hrlog⟩ := appended
  exact ⟨hdlog, hrlog⟩

theorem exec_logsGrow {s t : State} {i : Instr} (e : exec i s = .next t) : LogsGrow s t := by
  rcases exec_ends e with ⟨c, -, rfl⟩ | ⟨u, hu, rfl⟩
  · exact .of_same rfl rfl
  · obtain ⟨hdlog, hrlog⟩ := hu.logsGrow
    exact ⟨hdlog, hrlog⟩

/-! A host write to a register leaves the pin's sample, RADIO, the marks and the logs as they were. -/

section
variable (r : HostReg) (v : Word) (s : State)

@[simp] theorem regWrite_irqPrev : (regWrite r v s).irqPrev = s.irqPrev :=
  (congrArg State.irqPrev (regWrite_writesOnly r v s) :)
@[simp] theorem regWrite_radio : (regWrite r v s).radio = s.radio :=
  (congrArg State.radio (regWrite_writesOnly r v s) :)
@[simp] theorem regWrite_refused : (regWrite r v s).refused = s.refused :=
  (congrArg State.refused (regWrite_writesOnly r v s) :)
@[simp] theorem regWrite_refusedInRun : (regWrite r v s).refusedInRun = s.refusedInRun :=
  (congrArg State.refusedInRun (regWrite_writesOnly r v s) :)
@[simp] theorem regWrite_dlog : (regWrite r v s).dlog = s.dlog :=
  (congrArg State.dlog (regWrite_writesOnly r v s) :)
@[simp] theorem regWrite_rlog : (regWrite r v s).rlog = s.rlog :=
  (congrArg State.rlog (regWrite_writesOnly r v s) :)

end

theorem takeTurn_logsGrow {u : Turn} {s t : State} (e : takeTurn u s = .next t) : LogsGrow s t := by
  cases u with
  | hostRead width off =>
    cases e
    cases mapped : accessed width off with
    | none => rw [hostRead_refused s mapped]; exact .of_same rfl rfl
    | some r => rw [hostRead_mapped s mapped]; exact .of_same rfl rfl
  | hostWrite width off v =>
    cases e
    cases mapped : accessed width off with
    | none => rw [hostWrite_refused v s mapped]; exact .of_same rfl rfl
    | some r => rw [hostWrite_mapped v s mapped]; exact .of_same (regWrite_dlog r v s) (regWrite_rlog r v s)
  | engine =>
    rcases engineTurn_next e with ⟨-, rfl⟩ | ⟨-, l, i, -, -, h⟩
    · exact .of_same rfl rfl
    · exact exec_logsGrow h
  | arrival p => cases e; rw [arrivalTurn]; split <;> exact .of_same rfl rfl
  | lateCompletion sent => cases e; rw [lateTurn]; split <;> exact .of_same rfl rfl
  | pinNoise level => cases e; rw [pinTurn]; split <;> exact .of_same rfl rfl
  | blockReset => cases e; exact .of_same rfl rfl

/-- Settles O59: every turn appends to the logs or leaves them, a block reset among them (10_state.md R44). -/
theorem logsOnlyGrow : Obligations.LogsOnlyGrow := by
  intro s t e
  rcases step_next e with ⟨-, rfl⟩ | ⟨u, rest, -, hturn⟩
  · exact ⟨List.prefix_rfl, List.prefix_rfl⟩
  · obtain ⟨hdlog, hrlog⟩ := takeTurn_logsGrow hturn
    exact ⟨hdlog, hrlog⟩

/-! ### The decoder and the engine's turn (R72; 30_encoding.md R90) -/

/-- With a turn left, the step is that turn at the state it is taken off. -/
theorem step_of_inputs {s : State} {u : Turn} {rest : List Turn} (hin : s.inputs = u :: rest) :
    step s = takeTurn u { s with inputs := rest } := by
  simp [step, hin]

theorem isCommand_iff (w : Word) : isCommand w = true ↔ ∃ i, decode w = .ok i := by
  unfold isCommand
  split <;> simp_all

theorem engineTurn_command {s : State} {l : Latch} {i : Instr} (busy : s.status.busy = true)
    (latched : s.latch = some l) (legal : decode l.word = .ok i) : engineTurn s = exec i s := by
  have found : fetch s = .command i := (fetch_command_iff s i).2 ⟨busy, l, latched, legal⟩
  simp [engineTurn, found]

theorem engineTurn_idle {s : State} (idle : s.status.busy = false) : engineTurn s = .next s := by
  simp [engineTurn, (fetch_idle_iff s).2 idle]

theorem decodeTableWord_eq_some_iff {nbits w : Nat} {i : Instr} :
    decodeTableWord nbits w = some i ↔ decode (BitVec.ofNat 32 (w % 2 ^ nbits)) = .ok i := by
  unfold decodeTableWord
  split <;> simp_all

/-- Settles O4: the engine finds the latched command. -/
theorem engineTurnRunsLatchedCommand : Obligations.EngineTurnRunsLatchedCommand := by
  intro s rest l i hin busy latched legal
  exact (step_of_inputs hin).trans (engineTurn_command busy latched legal)

/-- Settles O5: the engine finds nothing to do. -/
theorem engineHasNoStepWhileIdle : Obligations.EngineHasNoStepWhileIdle := by
  intro s rest hin idle
  exact (step_of_inputs hin).trans (engineTurn_idle idle)

/-- Settles O6: the placed word is the latched one, BUSY is 1 and the engine's turn is next. -/
theorem placedWordRunsNext : Obligations.PlacedWordRunsNext := by
  intro s nbits w i placed
  have latched : (s.withFetchWord nbits w).latch =
      some ⟨BitVec.ofNat 32 (w % 2 ^ nbits), s.arg0, s.arg1, s.arg2, s.arg3⟩ := rfl
  have next : (s.withFetchWord nbits w).inputs = .engine :: s.inputs := rfl
  exact engineTurnRunsLatchedCommand _ _ _ i next rfl latched (decodeTableWord_eq_some_iff.1 placed)

/-! ### The register map (R60, R63) -/

/-- Past ARG3 only the byte windows are mapped. -/
theorem hostReg_past_arg3 {off : Offset} (aligned : off.toNat % 4 = 0) (past : 0x18 < off.toNat) :
    hostReg off =
      if 0x100 ≤ off.toNat ∧ off.toNat < 0x120 then some (.text ((off.toNat - 0x100) / 4))
      else if 0x140 ≤ off.toNat ∧ off.toNat < 0x158 then some (.msg ((off.toNat - 0x140) / 4))
      else if 0x160 ≤ off.toNat ∧ off.toNat < 0x178 then some (.txbuf ((off.toNat - 0x160) / 4))
      else if 0x400 ≤ off.toNat ∧ off.toNat < 0x604 then some (.fb ((off.toNat - 0x400) / 4))
      else none := by
  have ne {k : Nat} (hk : k ≤ 0x18) : off.toNat ≠ k := (hk.trans_lt past).ne'
  rw [hostReg, if_neg (not_not.2 aligned), if_neg (ne (by decide)), if_neg (ne (by decide)), if_neg (ne (by decide)),
    if_neg (ne (by decide)), if_neg (ne (by decide)), if_neg (ne (by decide)), if_neg (ne (by decide))]

/-- An address from a window's start on is in no window that ends there or before. -/
theorem not_in_window_below {a start lo hi : Nat} (from_start : start ≤ a) (ends : hi ≤ start) : ¬(lo ≤ a ∧ a < hi) :=
  fun inside => (ends.trans from_start).not_gt inside.2

theorem hostReg_text {off : Offset} (aligned : off.toNat % 4 = 0) (lo : 0x100 ≤ off.toNat) (hi : off.toNat < 0x120) :
    hostReg off = some (.text ((off.toNat - 0x100) / 4)) := by
  rw [hostReg_past_arg3 aligned (lo.trans' (by decide)), if_pos ⟨lo, hi⟩]

theorem hostReg_msg {off : Offset} (aligned : off.toNat % 4 = 0) (lo : 0x140 ≤ off.toNat) (hi : off.toNat < 0x158) :
    hostReg off = some (.msg ((off.toNat - 0x140) / 4)) := by
  rw [hostReg_past_arg3 aligned (lo.trans' (by decide)), if_neg (not_in_window_below lo (by decide)), if_pos ⟨lo, hi⟩]

theorem hostReg_txbuf {off : Offset} (aligned : off.toNat % 4 = 0) (lo : 0x160 ≤ off.toNat) (hi : off.toNat < 0x178) :
    hostReg off = some (.txbuf ((off.toNat - 0x160) / 4)) := by
  rw [hostReg_past_arg3 aligned (lo.trans' (by decide)), if_neg (not_in_window_below lo (by decide)),
    if_neg (not_in_window_below lo (by decide)), if_pos ⟨lo, hi⟩]

theorem hostReg_fb {off : Offset} (aligned : off.toNat % 4 = 0) (lo : 0x400 ≤ off.toNat) (hi : off.toNat < 0x604) :
    hostReg off = some (.fb ((off.toNat - 0x400) / 4)) := by
  rw [hostReg_past_arg3 aligned (lo.trans' (by decide)), if_neg (not_in_window_below lo (by decide)),
    if_neg (not_in_window_below lo (by decide)), if_neg (not_in_window_below lo (by decide)), if_pos ⟨lo, hi⟩]

/-- The offset's word stands in R60's map. -/
def Mapped (off : Offset) : Prop :=
  off.toNat ≤ 0x18 ∨ 0x100 ≤ off.toNat ∧ off.toNat < 0x120 ∨ 0x140 ≤ off.toNat ∧ off.toNat < 0x158 ∨
    0x160 ≤ off.toNat ∧ off.toNat < 0x178 ∨ 0x400 ≤ off.toNat ∧ off.toNat < 0x604

/-- The three grounds of refusal (R63). -/
def IllFormed (width : Nat) (off : Offset) : Prop := width ≠ 32 ∨ off.toNat % 4 ≠ 0 ∨ ¬Mapped off

/-- Every word up to ARG3 is mapped. -/
theorem hostReg_upto_arg3 {off : Offset} (aligned : off.toNat % 4 = 0) (upto : off.toNat ≤ 0x18) :
    hostReg off ≠ none := by
  have word : off.toNat / 4 ≤ 6 := by omega
  rw [hostReg, ← Nat.mul_div_cancel' (Nat.dvd_of_mod_eq_zero aligned)]
  generalize off.toNat / 4 = j at word
  revert j
  decide

theorem hostReg_eq_none_iff (off : Offset) : hostReg off = none ↔ off.toNat % 4 ≠ 0 ∨ ¬Mapped off := by
  by_cases aligned : off.toNat % 4 = 0
  · by_cases mapped : Mapped off
    · refine iff_of_false ?_ (not_or.2 ⟨not_not.2 aligned, not_not.2 mapped⟩)
      rcases mapped with upto | ⟨lo, hi⟩ | ⟨lo, hi⟩ | ⟨lo, hi⟩ | ⟨lo, hi⟩
      · exact hostReg_upto_arg3 aligned upto
      · exact (hostReg_text aligned lo hi).trans_ne nofun
      · exact (hostReg_msg aligned lo hi).trans_ne nofun
      · exact (hostReg_txbuf aligned lo hi).trans_ne nofun
      · exact (hostReg_fb aligned lo hi).trans_ne nofun
    · refine iff_of_true ?_ (.inr mapped)
      simp only [Mapped, not_or] at mapped
      obtain ⟨past, text, msg, txbuf, fb⟩ := mapped
      rw [hostReg_past_arg3 aligned (not_le.1 past), if_neg text, if_neg msg, if_neg txbuf, if_neg fb]
  · exact iff_of_true (if_pos aligned) (.inl aligned)

theorem accessed_eq_none_iff (width : Nat) (off : Offset) : accessed width off = none ↔ IllFormed width off := by
  rw [accessed, ite_eq_right_iff, IllFormed, ← hostReg_eq_none_iff, imp_iff_not_or]

theorem accessed_of_wellFormed {width : Nat} {off : Offset} (ok : ¬IllFormed width off) :
    ∃ r, accessed width off = some r :=
  Option.ne_none_iff_exists'.1 (mt (accessed_eq_none_iff width off).1 ok)

/-! ### The bytes of a window (R61, R62, R64) -/

theorem windowWord_lane {n : Nat} (b : Buf n) (j : Nat) {lane : Nat} (h : lane < 4) :
    (windowWord b j).extractLsb' (8 * lane) 8 = byteAt b (4 * j + lane) := by
  match lane, h with
  | 0, _ => exact BitVec.extractLsb'_append_eq_right
  | 1, _ => exact (BitVec.extractLsb'_append_eq_of_le (by decide)).trans BitVec.extractLsb'_append_eq_right
  | 2, _ =>
    exact (BitVec.extractLsb'_append_eq_of_le (by decide)).trans
      ((BitVec.extractLsb'_append_eq_of_le (by decide)).trans BitVec.extractLsb'_append_eq_right)
  | 3, _ =>
    exact (BitVec.extractLsb'_append_eq_of_le (by decide)).trans
      ((BitVec.extractLsb'_append_eq_of_le (by decide)).trans BitVec.extractLsb'_append_eq_left)

theorem byteAt_storeWord_lane {n : Nat} (b : Buf n) (j : Nat) (v : Word) {lane : Nat} (h : lane < 4)
    (inside : 4 * j + lane < n) : byteAt (storeWord b j v) (4 * j + lane) = v.extractLsb' (8 * lane) 8 := by
  have ne {p q : Nat} (hpq : p ≠ q) : 4 * j + p ≠ 4 * j + q := fun e => hpq (Nat.add_left_cancel e)
  match lane, h with
  | 3, _ => rw [storeWord, byteAt_setByte, if_pos ⟨rfl, inside⟩]
  | 2, _ => rw [storeWord, byteAt_setByte_ne _ _ (ne (by decide)), byteAt_setByte, if_pos ⟨rfl, inside⟩]
  | 1, _ =>
    rw [storeWord, byteAt_setByte_ne _ _ (ne (by decide)), byteAt_setByte_ne _ _ (ne (by decide)), byteAt_setByte,
      if_pos ⟨rfl, inside⟩]
  | 0, _ =>
    rw [storeWord, byteAt_setByte_ne _ _ (ne (by decide)), byteAt_setByte_ne _ _ (ne (by decide)),
      byteAt_setByte_ne _ _ (ne (by decide)), byteAt_setByte, if_pos ⟨rfl, inside⟩]

theorem byteAt_storeWord_other {n : Nat} (b : Buf n) {j : Nat} (v : Word) {k : Nat} (h : k / 4 ≠ j) :
    byteAt (storeWord b j v) k = byteAt b k := by
  have away {lane : Nat} (hlane : lane < 4) : k ≠ 4 * j + lane := by
    rintro rfl
    exact h (by omega)
  rw [storeWord, byteAt_setByte_ne _ _ (away (by decide)), byteAt_setByte_ne _ _ (away (by decide)),
    byteAt_setByte_ne _ _ (away (by decide))]
  exact byteAt_setByte_ne _ _ (away (lane := 0) (by decide))

theorem byteAt_storeWord {n : Nat} (b : Buf n) (j : Nat) (v : Word) {k : Nat} (hk : k < n) :
    byteAt (storeWord b j v) k = if k / 4 = j then v.extractLsb' (8 * (k % 4)) 8 else byteAt b k := by
  split
  case isTrue word =>
    subst word
    have place : 4 * (k / 4) + k % 4 = k := Nat.div_add_mod k 4
    have lane := byteAt_storeWord_lane b (k / 4) v (Nat.mod_lt k (by decide)) (place.trans_lt hk)
    rwa [place] at lane
  case isFalse other => exact byteAt_storeWord_other b v other

/-! ### Host accesses, with `irq_prev` at the pin level (R60, R62, R63, R65, R70, R71) -/

/-- In a settled state the detector adds nothing to a read (42_radio_framer.md R171). -/
theorem hostRead_settled {s : State} {width : Nat} {off : Offset} {r : HostReg} (hs : Settled s)
    (mapped : accessed width off = some r) : hostRead width off s = { s with hostData := some (regRead r s) } := by
  rw [hostRead_mapped s mapped]
  exact detect_of_settled hs

/-- A write of a mapped word: the register's write and the detector's evaluation after it. -/
theorem step_hostWrite {s : State} {rest : List Turn} {width : Nat} {off : Offset} {r : HostReg} {v : Word}
    (hin : s.inputs = .hostWrite width off v :: rest) (mapped : accessed width off = some r) :
    step s = .next (detect (regWrite r v { s with inputs := rest })) := by
  rw [step_of_inputs hin, takeTurn, hostWrite_mapped v _ mapped]

/-- No register's write moves the IRQ pin, so in a settled state the detector adds nothing to it. -/
theorem step_hostWrite_settled {s : State} {rest : List Turn} {off : Offset} {r : HostReg} {v : Word} (hs : Settled s)
    (hin : s.inputs = .hostWrite 32 off v :: rest) (hr : hostReg off = some r) :
    step s = .next (regWrite r v { s with inputs := rest }) := by
  have settled : Settled (regWrite r v { s with inputs := rest }) := by simpa [Settled] using hs
  rw [step_hostWrite hin hr, detect_of_settled settled]

/-- A busy write to a word of TEXT or TXBUF raises BUSY (R71). -/
theorem step_hostWrite_busy {s : State} {rest : List Turn} {off : Offset} {r : HostReg} {v : Word} (hs : Settled s)
    (hin : s.inputs = .hostWrite 32 off v :: rest) (busy : s.status.busy = true) (hr : hostReg off = some r)
    (window : (∃ j, r = .text j) ∨ ∃ j, r = .txbuf j) :
    step s = .next { s with inputs := rest, err := firstError .busy s.err } := by
  rw [step_hostWrite_settled hs hin hr]
  rcases window with ⟨j, rfl⟩ | ⟨j, rfl⟩
  · rw [regWrite, if_pos busy]; rfl
  · rw [regWrite, if_pos busy]; rfl

/-- Settles O8: each write is its register's, the detector adding nothing. -/
theorem writesAroundBusy : Obligations.WritesAroundBusy := by
  intro s rest off v hs hin
  refine ⟨?_, ?_, ?_, ?_, ?_, ?_, ?_⟩
  · rintro busy aligned (⟨lo, hi⟩ | ⟨lo, hi⟩)
    · exact step_hostWrite_busy hs hin busy (hostReg_text aligned lo hi) (.inl ⟨_, rfl⟩)
    · exact step_hostWrite_busy hs hin busy (hostReg_txbuf aligned lo hi) (.inr ⟨_, rfl⟩)
  · rintro rfl; exact step_hostWrite_settled hs hin (r := .arg0) rfl
  · rintro rfl; exact step_hostWrite_settled hs hin (r := .arg1) rfl
  · rintro rfl; exact step_hostWrite_settled hs hin (r := .arg2) rfl
  · rintro rfl; exact step_hostWrite_settled hs hin (r := .arg3) rfl
  · rintro rfl; exact step_hostWrite_settled hs hin (r := .status) rfl
  · rintro rfl; exact step_hostWrite_settled hs hin (r := .err) rfl

/-- Settles O9: the word's four lanes are stored, by `byteAt_storeWord`. -/
theorem windowStoresLittleEndian : Obligations.WindowStoresLittleEndian := by
  intro s rest off v hs idle hin aligned
  have notBusy : ¬s.status.busy = true := by simp [idle]
  constructor
  · intro lo hi
    refine ⟨{ s with inputs := rest, text := storeWord s.text ((off.toNat - 0x100) / 4) v }, ?_, rfl,
      fun k hk => byteAt_storeWord _ _ _ hk⟩
    rw [step_hostWrite_settled hs hin (hostReg_text aligned lo hi), regWrite, if_neg notBusy]
  · intro lo hi
    refine ⟨{ s with inputs := rest, txbuf := storeWord s.txbuf ((off.toNat - 0x160) / 4) v }, ?_, rfl,
      fun k hk => byteAt_storeWord _ _ _ hk⟩
    rw [step_hostWrite_settled hs hin (hostReg_txbuf aligned lo hi), regWrite, if_neg notBusy]

/-- A lane of a read of a byte window is its byte, `d` bytes into the window; past the buffer's end it is 0 (R62). -/
theorem step_readLane {s : State} {rest : List Turn} {off : Offset} {r : HostReg} {n d lane : Nat} {b : Buf n}
    (hin : s.inputs = .hostRead 32 off :: rest) (hr : hostReg off = some r) (holds : regRead r s = windowWord b (d / 4))
    (aligned : d % 4 = 0) (hlane : lane < 4) :
    ∃ t w, step s = .next t ∧ t.hostData = some w ∧
      w.extractLsb' (8 * lane) 8 = if d + lane < n then byteAt b (d + lane) else 0#8 := by
  obtain ⟨t, hstep, hdata⟩ := step_hostRead hin hr
  refine ⟨t, _, hstep, hdata, ?_⟩
  rw [holds, windowWord_lane b _ hlane, Nat.mul_div_cancel' (Nat.dvd_of_mod_eq_zero aligned)]
  split
  · rfl
  · exact byteAt_of_ge b (by omega)

/-- Settles O10: each window's read is `step_readLane`; TEXT's words have no pads. -/
theorem windowReadsLittleEndian : Obligations.WindowReadsLittleEndian := by
  intro s rest off hin aligned lane hlane
  refine ⟨?_, ?_, ?_, ?_⟩ <;> intro lo hi
  · have inside : off.toNat - 0x100 + lane < 32 := by omega
    simpa only [Config.textLen, if_pos inside] using
      step_readLane hin (hostReg_text aligned lo hi) rfl (Nat.sub_mod_eq_zero_of_mod_eq aligned) hlane
  · exact step_readLane hin (hostReg_msg aligned lo hi) rfl (Nat.sub_mod_eq_zero_of_mod_eq aligned) hlane
  · exact step_readLane hin (hostReg_txbuf aligned lo hi) rfl (Nat.sub_mod_eq_zero_of_mod_eq aligned) hlane
  · exact step_readLane hin (hostReg_fb aligned lo hi) rfl (Nat.sub_mod_eq_zero_of_mod_eq aligned) hlane

/-- Settles O12: `accessed` is undefined exactly on R63's grounds, and a register's write keeps the marks. -/
theorem accessIsRefusedExactlyWhenIllFormed : Obligations.AccessIsRefusedExactlyWhenIllFormed := by
  intro s rest width off v bad
  refine ⟨fun hin => ⟨fun h => ?_, fun h => ?_⟩, fun hin => ⟨fun h => ?_, fun h => ?_⟩⟩
  · rw [step_of_inputs hin, takeTurn, hostRead_refused _ ((accessed_eq_none_iff width off).2 h)]
    rfl
  · obtain ⟨r, mapped⟩ := accessed_of_wellFormed h
    rw [step_of_inputs hin, takeTurn, hostRead_mapped _ mapped]
    exact ⟨_, _, rfl, rfl, rfl, rfl⟩
  · rw [step_of_inputs hin, takeTurn, hostWrite_refused _ _ ((accessed_eq_none_iff width off).2 h)]
    rfl
  · obtain ⟨r, mapped⟩ := accessed_of_wellFormed h
    exact ⟨_, step_hostWrite hin mapped, by simp, by simp⟩

/-- Settles O14: a write to either window is its register's, which is no change. -/
theorem readOnlyWindowsIgnoreWrites : Obligations.ReadOnlyWindowsIgnoreWrites := by
  rintro s rest off v hs hin aligned (⟨lo, hi⟩ | ⟨lo, hi⟩)
  · exact step_hostWrite_settled hs hin (hostReg_msg aligned lo hi)
  · exact step_hostWrite_settled hs hin (hostReg_fb aligned lo hi)

/-- Settles O7: the offer's checks, in their order. -/
theorem commandWriteIsAcceptedOrRejected : Obligations.CommandWriteIsAcceptedOrRejected := by
  intro s rest w hs hin
  have offered : step s = .next (offerCommand w { s with inputs := rest }) :=
    step_hostWrite_settled hs hin (r := .cmd) rfl
  rw [offered]
  rcases offerCommand_cases w { s with inputs := rest } with
    ⟨busy, h⟩ | ⟨idle, illegal, h⟩ | ⟨idle, reserved, h⟩ | ⟨idle, legal, h⟩ <;> rw [h]
  · rw [if_pos busy]; rfl
  · rw [if_neg (by simpa using idle), if_pos illegal]; rfl
  · rw [if_neg (by simpa using idle), if_neg (by simp [reserved]), if_pos reserved]; rfl
  · obtain ⟨i, accepted⟩ := (isCommand_iff w).1 legal
    rw [if_neg (by simpa using idle), if_neg (by simp [accepted]), if_neg (by simp [accepted])]

/-- Settles O13: in a settled state a read leaves `hostData` and, refused, the marks. -/
theorem readHasNoSideEffect : Obligations.ReadHasNoSideEffect := by
  intro s rest width off hs hin
  have turn := step_of_inputs hin
  cases mapped : accessed width off with
  | none =>
    rw [takeTurn, hostRead_refused _ mapped] at turn
    exact ⟨_, turn, rfl⟩
  | some r =>
    rw [takeTurn, hostRead_settled (s := { s with inputs := rest }) hs mapped] at turn
    exact ⟨_, turn, rfl⟩

end Sys2Proof.Machine

/-! The command words (30_encoding.md): what the decoder can answer (R86, R89), its inverse (R91), and NOP (R94). -/

namespace Sys2Proof.Machine

open Sys2Proof.Laws.CommandWord (opcodes)

/-! ### The fields of a command word (R85) -/

/-- The bits a row of R86's table reserves, by its opcode. -/
def reservedBits (op : Nat) : Word :=
  if op ∈ [0x11, 0x13, 0x40] then reservedButA else if op = 0x15 then reservedButS else reservedAll

/-- The command word of a row of R86's table, by its opcode, with the flag the row reads taken from `w` (R91). -/
def rowWord (op : Nat) (w : Word) : Word :=
  if op ∈ [0x11, 0x13, 0x40] then BitVec.ofNat 32 op ||| aBit (aField w)
  else if op = 0x15 then BitVec.ofNat 32 op ||| sBit (sField w)
  else BitVec.ofNat 32 op

theorem reservedAll_bit (k : Nat) : reservedAll.getLsbD k = true ↔ 8 ≤ k ∧ k < 32 := by
  by_cases hk : k < 32
  · exact (by decide : ∀ k < 32, reservedAll.getLsbD k = true ↔ 8 ≤ k ∧ k < 32) k hk
  · simp [hk, BitVec.getLsbD_of_ge reservedAll k (by omega)]

theorem reservedButA_eq : reservedButA = reservedAll &&& ~~~BitVec.twoPow 32 8 := by decide

theorem reservedButS_eq : reservedButS = reservedAll &&& ~~~BitVec.twoPow 32 9 := by decide

/-- A row reserves all above OP but the flag it reads (R86). -/
theorem reservedBits_bit (op k : Nat) :
    (reservedBits op).getLsbD k = true ↔
      8 ≤ k ∧ k < 32 ∧ ¬(k = 8 ∧ op ∈ [0x11, 0x13, 0x40]) ∧ ¬(k = 9 ∧ op = 0x15) := by
  have all := reservedAll_bit k
  unfold reservedBits
  split
  case isTrue a =>
    have notText : op ≠ 0x15 := by rintro rfl; exact absurd a (by decide)
    simp [reservedButA_eq, all, a, notText]
    omega
  case isFalse a =>
    split
    case isTrue s => simp [reservedButS_eq, all, s]; omega
    case isFalse s => simp [all, a, s]

/-- Without the bits above OP, a word is its OP. -/
theorem and_not_reservedAll (w : Word) : w &&& ~~~reservedAll = BitVec.ofNat 32 (opField w) := by
  apply BitVec.eq_of_toNat_eq
  have mask : (~~~reservedAll).toNat = 2 ^ 8 - 1 := by decide
  have low : w.toNat % 2 ^ 8 < 2 ^ 32 := by omega
  have op : opField w = w.toNat % 2 ^ 8 := by simp [opField]
  rw [BitVec.toNat_and, mask, Nat.and_two_pow_sub_one_eq_mod, op, BitVec.toNat_ofNat, Nat.mod_eq_of_lt low]

theorem and_bitA (w : Word) : w &&& BitVec.twoPow 32 8 = aBit (aField w) := BitVec.and_twoPow w 8

theorem and_bitS (w : Word) : w &&& BitVec.twoPow 32 9 = sBit (sField w) := by
  rw [BitVec.and_twoPow, sField]
  split <;> rfl

/-- Without the bits its row reserves, a word is its row's. -/
theorem and_not_reservedBits (w : Word) : w &&& ~~~reservedBits (opField w) = rowWord (opField w) w := by
  unfold reservedBits rowWord
  split
  case isTrue =>
    rw [reservedButA_eq, BitVec.not_and, BitVec.not_not, BitVec.and_or_distrib_left, and_not_reservedAll, and_bitA]
  case isFalse =>
    split
    case isTrue =>
      rw [reservedButS_eq, BitVec.not_and, BitVec.not_not, BitVec.and_or_distrib_left, and_not_reservedAll, and_bitS]
    case isFalse => exact and_not_reservedAll w

/-! ### What the decoder can answer (R86, R89) -/

/-- A word whose OP is not in the table is ILLEGAL. One whose OP is has a row: the row's command is the one whose word
is `w` without the bits the row reserves, and the decoder tests those bits. -/
theorem decode_cases (w : Word) :
    (opField w ∉ opcodes ∧ decode w = .error .illegal) ∨
    (opField w ∈ opcodes ∧ ∃ i, encode i = w &&& ~~~reservedBits (opField w) ∧
      decode w = withReserved (reservedBits (opField w)) w i) := by
  rw [and_not_reservedBits]
  unfold decode
  split
  case h_18 =>
    refine .inl ⟨?_, rfl⟩
    simp only [opcodes, List.mem_cons, List.not_mem_nil, or_false, not_or]
    and_intros <;> assumption
  all_goals
    rename_i op
    rw [op]
    exact .inr ⟨by decide, _, by rfl, rfl⟩

/-- RSVD is answered exactly when a bit the row reserves is 1. -/
theorem withReserved_rsvd_iff (reserved w : Word) (i : Instr) :
    withReserved reserved w i = .error .rsvd ↔ ∃ k, w.getLsbD k = true ∧ reserved.getLsbD k = true := by
  have clear : w &&& reserved = 0#32 ↔ ¬∃ k, w.getLsbD k = true ∧ reserved.getLsbD k = true := by
    simp [BitVec.zero_iff_eq_false]
  unfold withReserved
  split
  case isTrue h => exact ⟨nofun, fun shared => absurd shared (clear.1 h)⟩
  case isFalse h => exact ⟨fun _ => not_not.1 (mt clear.2 h), fun _ => rfl⟩

theorem withReserved_ne_illegal (reserved w : Word) (i : Instr) : withReserved reserved w i ≠ .error .illegal := by
  unfold withReserved
  split <;> nofun

/-! ### The encoder is the decoder's inverse (R91) -/

theorem decode_encode (i : Instr) : decode (encode i) = .ok i := by
  cases i with
  | pset flag | line flag | text flag | armwake flag => cases flag <;> rfl
  | _ => rfl

theorem encode_of_decode {w : Word} {i : Instr} (h : decode w = .ok i) : w = encode i := by
  rcases decode_cases w with ⟨-, illegal⟩ | ⟨-, j, word, row⟩
  · exact absurd (illegal.symm.trans h) nofun
  · obtain ⟨clear, rfl⟩ := withReserved_ok (row.symm.trans h)
    calc w
      _ = (w &&& reservedBits (opField w)) ||| (w &&& ~~~reservedBits (opField w)) := by
        rw [← BitVec.and_or_distrib_left, BitVec.or_not_self, BitVec.and_allOnes]
      _ = encode j := by rw [clear, BitVec.zero_or, word]

/-- Settles O1: `encode_of_decode` and `decode_encode`. -/
theorem decodesExactlyTheEncodedWords : Obligations.DecodesExactlyTheEncodedWords := by
  intro w i
  constructor
  · exact encode_of_decode
  · rintro rfl
    exact decode_encode i

/-- Settles O2: ILLEGAL and RSVD read off `decode_cases`. -/
theorem rejectsIllegalThenReserved : Obligations.RejectsIllegalThenReserved := by
  intro w
  change (decode w = .error .illegal ↔ opField w ∉ opcodes) ∧
    (decode w = .error .rsvd ↔ opField w ∈ opcodes ∧ ∃ k, 8 ≤ k ∧ k < 32 ∧ w.getLsbD k = true ∧
      ¬(k = 8 ∧ opField w ∈ [0x11, 0x13, 0x40]) ∧ ¬(k = 9 ∧ opField w = 0x15))
  rcases decode_cases w with ⟨unknown, answer⟩ | ⟨known, i, -, answer⟩ <;> rw [answer]
  · exact ⟨by simp [unknown], by simp [unknown]⟩
  · refine ⟨by simp [known, withReserved_ne_illegal], ?_⟩
    simp only [withReserved_rsvd_iff, reservedBits_bit, known, true_and]
    exact exists_congr fun k =>
      ⟨fun ⟨set, lo, hi, free⟩ => ⟨lo, hi, set, free⟩, fun ⟨lo, hi, set, free⟩ => ⟨set, lo, hi, free⟩⟩

/-- Settles O3: seven words are `encode`'s, and the two rejections are evaluated. -/
theorem sampleWordsDecode : Obligations.SampleWordsDecode :=
  ⟨decode_encode .nop, decode_encode (.pset true), decode_encode (.line false), decode_encode (.text .msg),
    decode_encode .push, decode_encode .event, decode_encode (.armwake true), by decide, by decide⟩

/-- Settles O15: NOP only ends its step (20_memory.md R72). -/
theorem nopOnlyCompletes : Obligations.NopOnlyCompletes := by
  intro s hs
  rw [exec_nop, completed_of_settled hs]

end Sys2Proof.Machine

/-! The renderer (40_renderer.md): each operation on the framebuffer as what it makes of a pixel or of a byte (R105 to
R108, R114, R123, R128), the cells of a line in closed form (R113, R115, R117), and what each drawing command leaves. -/

namespace Sys2Proof.Machine

/-! ### Lines in closed form (R113) -/

/-- How far a coordinate that has `d` to go in all has gone after `k` of `n` steps of a line: `d * k / n` to the
nearest integer, halves up. -/
def covered (n d k : Nat) : Nat := (2 * d * k + n) / (2 * n)

theorem covered_eq_iff {n d k c : Nat} (hn : 0 < n) :
    covered n d k = c ↔ 2 * n * c ≤ 2 * d * k + n ∧ 2 * d * k + n < 2 * n * (c + 1) := by
  have width : 0 < 2 * n := Nat.mul_pos two_pos hn
  rw [covered, Nat.mul_comm (2 * n) c, Nat.mul_comm (2 * n) (c + 1), ← Nat.le_div_iff_mul_le width,
    ← Nat.div_lt_iff_lt_mul width, Nat.lt_succ_iff]
  exact eq_comm.trans le_antisymm_iff

theorem covered_bounds {n : Nat} (d k : Nat) (hn : 0 < n) :
    2 * n * covered n d k ≤ 2 * d * k + n ∧ 2 * d * k + n < 2 * n * (covered n d k + 1) :=
  (covered_eq_iff hn).1 rfl

theorem half_cell (n : Nat) : n / (2 * n) = 0 := Nat.div_eq_zero_iff.2 (by omega)

theorem covered_start (n d : Nat) : covered n d 0 = 0 := by
  rw [covered, Nat.mul_zero, Nat.zero_add, half_cell]

theorem covered_still (n k : Nat) : covered n 0 k = 0 := by
  rw [covered, Nat.mul_zero, Nat.zero_mul, Nat.zero_add, half_cell]

/-- The longer coordinate goes one cell in every step. -/
theorem covered_major {n k : Nat} (h : k ≤ n) : covered n n k = k := by
  rcases n.eq_zero_or_pos with rfl | hn
  · rw [covered_still, Nat.le_zero.1 h]
  · rw [covered, Nat.mul_add_div (Nat.mul_pos two_pos hn), half_cell, Nat.add_zero]

theorem covered_end {n d : Nat} (h : d ≤ n) : covered n d n = d := by
  rcases n.eq_zero_or_pos with rfl | hn
  · rw [covered_start, Nat.le_zero.1 h]
  · rw [covered, Nat.mul_right_comm, Nat.mul_add_div (Nat.mul_pos two_pos hn), half_cell, Nat.add_zero]

/-- A step moves a coordinate when the exact line is then past the middle between two cells. -/
theorem covered_succ {n d : Nat} (k : Nat) (hn : 0 < n) (h : d ≤ n) :
    covered n d (k + 1) = covered n d k + if n * (2 * covered n d k + 1) ≤ 2 * d * (k + 1) then 1 else 0 := by
  obtain ⟨lo, hi⟩ := covered_bounds d k hn
  rw [covered_eq_iff hn]
  split <;> constructor <;> grind

/-- The steps of a line: the larger coordinate difference (R115). -/
def lineSteps (a b : Nat) : Nat := max a b

theorem le_lineSteps_left (a b : Nat) : a ≤ lineSteps a b := le_max_left a b

theorem le_lineSteps_right (a b : Nat) : b ≤ lineSteps a b := le_max_right a b

theorem lineSteps_comm (a b : Nat) : lineSteps b a = lineSteps a b := max_comm b a

theorem lineSteps_of_xMajor {a b : Nat} (h : b ≤ a) : lineSteps a b = a := max_eq_left h

theorem lineSteps_of_yMajor {a b : Nat} (h : a ≤ b) : lineSteps a b = b := max_eq_right h

/-- The error term of R113 after `k` steps, from how far the two coordinates have come. -/
def lineError (a b k : Nat) : Int :=
  a * (covered (lineSteps a b) b k + 1) - b * (covered (lineSteps a b) a k + 1)

theorem lineError_swap (a b k : Nat) : lineError b a k = -lineError a b k := by
  simp only [lineError, lineSteps_comm b a]
  grind

theorem lineError_start (a b : Nat) : lineError a b 0 = a + -(b : Int) := by
  rw [lineError, covered_start, covered_start, Nat.cast_zero, zero_add, mul_one, mul_one, sub_eq_add_neg]

/-- The test of R113 on the first coordinate is the rounding of `covered`: it holds when the coordinate moves. -/
theorem covered_first_succ {a b k : Nat} (hk : k < lineSteps a b) :
    covered (lineSteps a b) a (k + 1) =
      covered (lineSteps a b) a k + if 2 * lineError a b k ≥ -(b : Int) then 1 else 0 := by
  rw [covered_succ k (by omega) (le_lineSteps_left a b)]
  congr 2
  rw [eq_iff_iff, lineError]
  rcases le_total b a with h | h
  · rw [lineSteps_of_xMajor h] at hk ⊢
    obtain ⟨-, hi⟩ := covered_bounds b k (by omega : 0 < a)
    rw [covered_major hk.le]
    exact iff_of_true (by grind) (by grind)
  · rw [lineSteps_of_yMajor h] at hk ⊢
    rw [covered_major hk.le]
    grind

theorem covered_second_succ {a b k : Nat} (hk : k < lineSteps a b) :
    covered (lineSteps a b) b (k + 1) = covered (lineSteps a b) b k + if 2 * lineError a b k ≤ a then 1 else 0 := by
  have turned := covered_first_succ (a := b) (b := a) (k := k) (by rwa [lineSteps_comm])
  simpa only [lineError_swap a b k, lineSteps_comm a b, mul_neg, ge_iff_le, neg_le_neg_iff] using turned

theorem lineError_succ {a b k : Nat} (hk : k < lineSteps a b) :
    lineError a b (k + 1) =
      lineError a b k + (if 2 * lineError a b k ≥ -(b : Int) then -(b : Int) else 0) +
        (if 2 * lineError a b k ≤ a then (a : Int) else 0) := by
  rw [lineError, covered_first_succ hk, covered_second_succ hk]
  simp only [Nat.cast_add, Nat.cast_ite, Nat.cast_one, Nat.cast_zero]
  split <;> split <;> rw [lineError] <;> ring

/-- Cell `k` of the line that has `a` and `b` to go in directions `sx` and `sy`. -/
def cellAt (x0 y0 sx sy : Int) (a b k : Nat) : Int × Int :=
  (x0 + covered (lineSteps a b) a k * sx, y0 + covered (lineSteps a b) b k * sy)

/-- The next cell moves in each coordinate whose test of R113 holds. -/
theorem cellAt_succ {x0 y0 sx sy : Int} {a b k : Nat} (hk : k < lineSteps a b) :
    cellAt x0 y0 sx sy a b (k + 1) =
      (if 2 * lineError a b k ≥ -(b : Int) then (cellAt x0 y0 sx sy a b k).1 + sx else (cellAt x0 y0 sx sy a b k).1,
        if 2 * lineError a b k ≤ a then (cellAt x0 y0 sx sy a b k).2 + sy else (cellAt x0 y0 sx sy a b k).2) := by
  simp only [cellAt, covered_first_succ hk, covered_second_succ hk, Prod.mk.injEq]
  constructor <;> split <;> grind

/-- Only the last step is at both ends' distances. -/
theorem covered_end_iff {a b k : Nat} (hk : k ≤ lineSteps a b) :
    covered (lineSteps a b) a k = a ∧ covered (lineSteps a b) b k = b ↔ k = lineSteps a b := by
  constructor
  · rintro ⟨ha, hb⟩
    rcases le_total b a with h | h
    · rw [lineSteps_of_xMajor h] at ha hk ⊢
      rwa [covered_major hk] at ha
    · rw [lineSteps_of_yMajor h] at hb hk ⊢
      rwa [covered_major hk] at hb
  · rintro rfl
    exact ⟨covered_end (le_lineSteps_left a b), covered_end (le_lineSteps_right a b)⟩

/-- From cell `k` on, with fuel for the rest of the line, the loop gives the cells from `k` on. -/
theorem lineLoop_eq {x0 y0 sx sy : Int} {a b : Nat} (hx : sx ≠ 0) (hy : sy ≠ 0) (n fuel k : Nat) (fuelled : n < fuel)
    (rest : k + n = lineSteps a b) :
    lineLoop (x0 + a * sx) (y0 + b * sy) a (-(b : Int)) sx sy fuel (cellAt x0 y0 sx sy a b k).1
        (cellAt x0 y0 sx sy a b k).2 (lineError a b k) =
      (List.range' k (n + 1)).map (cellAt x0 y0 sx sy a b) := by
  induction n generalizing fuel k with
  | zero =>
    obtain ⟨fuel, rfl⟩ : ∃ m, fuel = m + 1 := ⟨fuel - 1, by omega⟩
    rw [Nat.add_zero] at rest
    obtain ⟨ha, hb⟩ := (covered_end_iff rest.le).2 rest
    have last : cellAt x0 y0 sx sy a b k = (x0 + a * sx, y0 + b * sy) := by rw [cellAt, ha, hb]
    simp [lineLoop, last]
  | succ n ih =>
    obtain ⟨fuel, rfl⟩ : ∃ m, fuel = m + 1 := ⟨fuel - 1, by omega⟩
    have hk : k < lineSteps a b := by omega
    have going : ¬((cellAt x0 y0 sx sy a b k).1 = x0 + a * sx ∧ (cellAt x0 y0 sx sy a b k).2 = y0 + b * sy) := by
      rintro ⟨atX, atY⟩
      have ha := Int.ofNat_inj.1 (mul_right_cancel₀ hx (add_left_cancel atX))
      have hb := Int.ofNat_inj.1 (mul_right_cancel₀ hy (add_left_cancel atY))
      exact hk.ne ((covered_end_iff hk.le).1 ⟨ha, hb⟩)
    rw [List.range'_succ, List.map_cons, ← ih fuel (k + 1) (Nat.lt_of_succ_lt_succ fuelled) (by omega), lineLoop,
      if_neg going, lineError_succ hk, cellAt_succ hk]

/-- Cell `k` of the line from (x0, y0) to (x1, y1). -/
def lineCell (x0 y0 x1 y1 : Int) (k : Nat) : Int × Int :=
  cellAt x0 y0 (x1 - x0).sign (y1 - y0).sign (x1 - x0).natAbs (y1 - y0).natAbs k

theorem lineCell_fst (x0 y0 x1 y1 : Int) (k : Nat) :
    (lineCell x0 y0 x1 y1 k).1 =
      x0 + covered (lineSteps (x1 - x0).natAbs (y1 - y0).natAbs) (x1 - x0).natAbs k * (x1 - x0).sign := rfl

theorem lineCell_snd (x0 y0 x1 y1 : Int) (k : Nat) :
    (lineCell x0 y0 x1 y1 k).2 =
      y0 + covered (lineSteps (x1 - x0).natAbs (y1 - y0).natAbs) (y1 - y0).natAbs k * (y1 - y0).sign := rfl

theorem lineCell_start (x0 y0 x1 y1 : Int) : lineCell x0 y0 x1 y1 0 = (x0, y0) := by
  simp [lineCell, cellAt, covered_start]

/-- A coordinate that does not move may be given either direction. -/
theorem covered_mul_direction (n k : Nat) (u v : Int) :
    (covered n (v - u).natAbs k : Int) * (if u < v then 1 else -1) = covered n (v - u).natAbs k * (v - u).sign := by
  rcases lt_trichotomy u v with h | rfl | h
  · rw [if_pos h, Int.sign_eq_one_of_pos (sub_pos.2 h)]
  · rw [sub_self, Int.natAbs_zero, covered_still, Nat.cast_zero, zero_mul, zero_mul]
  · rw [if_neg h.not_gt, Int.sign_eq_neg_one_of_neg (sub_neg.2 h)]

/-- `LinePoints` in closed form (R113). -/
theorem linePoints_eq (x0 y0 x1 y1 : Int) :
    linePoints x0 y0 x1 y1 =
      (List.range (lineSteps (x1 - x0).natAbs (y1 - y0).natAbs + 1)).map (lineCell x0 y0 x1 y1) := by
  have far (u v : Int) : u + (v - u).natAbs * (if u < v then 1 else -1) = v := by
    have direction := covered_mul_direction (v - u).natAbs (v - u).natAbs u v
    rw [covered_end le_rfl] at direction
    rw [direction, mul_comm, Int.sign_mul_natAbs, add_sub_cancel]
  have loop := lineLoop_eq (x0 := x0) (y0 := y0) (sx := if x0 < x1 then 1 else -1) (sy := if y0 < y1 then 1 else -1)
    (a := (x1 - x0).natAbs) (b := (y1 - y0).natAbs) (by split <;> decide) (by split <;> decide)
    (lineSteps (x1 - x0).natAbs (y1 - y0).natAbs) ((x1 - x0).natAbs + (y1 - y0).natAbs + 1) 0
    (Nat.lt_succ_of_le (max_le (Nat.le_add_right _ _) (Nat.le_add_left _ _))) (Nat.zero_add _)
  have cells : cellAt x0 y0 (if x0 < x1 then 1 else -1) (if y0 < y1 then 1 else -1) (x1 - x0).natAbs
      (y1 - y0).natAbs = lineCell x0 y0 x1 y1 := by
    funext k
    simp only [lineCell, cellAt, covered_mul_direction]
  rw [far, far, cells, ← List.range_eq_range', lineCell_start, lineError_start] at loop
  exact loop

/-! ### The cells of a line (R115) -/

theorem linePoints_getElem?_eq_some_iff {x0 y0 x1 y1 : Int} {k : Nat} {c : Int × Int} :
    (linePoints x0 y0 x1 y1)[k]? = some c ↔
      k ≤ lineSteps (x1 - x0).natAbs (y1 - y0).natAbs ∧ lineCell x0 y0 x1 y1 k = c := by
  simp [linePoints_eq, List.getElem?_eq_some_iff]

theorem mem_linePoints_iff {x0 y0 x1 y1 : Int} {c : Int × Int} :
    c ∈ linePoints x0 y0 x1 y1 ↔
      ∃ k ≤ lineSteps (x1 - x0).natAbs (y1 - y0).natAbs, lineCell x0 y0 x1 y1 k = c := by
  simp [linePoints_eq]

theorem lineCell_end (x0 y0 x1 y1 : Int) :
    lineCell x0 y0 x1 y1 (lineSteps (x1 - x0).natAbs (y1 - y0).natAbs) = (x1, y1) := by
  simp [lineCell, cellAt, covered_end, le_lineSteps_left, le_lineSteps_right, mul_comm _ (Int.sign _), Int.sign_mul_abs]

/-- Along its longer coordinate a line goes one cell in each step. -/
theorem lineCell_fst_of_xMajor {x0 y0 x1 y1 : Int} {k : Nat} (major : (y1 - y0).natAbs ≤ (x1 - x0).natAbs)
    (hk : k ≤ (x1 - x0).natAbs) : (lineCell x0 y0 x1 y1 k).1 = x0 + k * (x1 - x0).sign := by
  rw [lineCell_fst, lineSteps_of_xMajor major, covered_major hk]

theorem lineCell_snd_of_yMajor {x0 y0 x1 y1 : Int} {k : Nat} (major : (x1 - x0).natAbs ≤ (y1 - y0).natAbs)
    (hk : k ≤ (y1 - y0).natAbs) : (lineCell x0 y0 x1 y1 k).2 = y0 + k * (y1 - y0).sign := by
  rw [lineCell_snd, lineSteps_of_yMajor major, covered_major hk]

/-- Steps toward an end are told apart by where they come to. -/
theorem steps_injective {u v : Int} {k m : Nat} (hk : k ≤ (v - u).natAbs) (hm : m ≤ (v - u).natAbs)
    (same : u + k * (v - u).sign = u + m * (v - u).sign) : k = m := by
  by_cases still : v - u = 0
  · rw [still, Int.natAbs_zero, Nat.le_zero] at hk hm
    rw [hk, hm]
  · exact Int.ofNat_inj.1 (mul_right_cancel₀ (mt Int.sign_eq_zero_iff_zero.1 still) (add_left_cancel same))

theorem lineCell_injective {x0 y0 x1 y1 : Int} {k m : Nat} (hk : k ≤ lineSteps (x1 - x0).natAbs (y1 - y0).natAbs)
    (hm : m ≤ lineSteps (x1 - x0).natAbs (y1 - y0).natAbs)
    (same : lineCell x0 y0 x1 y1 k = lineCell x0 y0 x1 y1 m) : k = m := by
  rcases le_total (y1 - y0).natAbs (x1 - x0).natAbs with major | major
  · rw [lineSteps_of_xMajor major] at hk hm
    have := congrArg Prod.fst same
    rw [lineCell_fst_of_xMajor major hk, lineCell_fst_of_xMajor major hm] at this
    exact steps_injective hk hm this
  · rw [lineSteps_of_yMajor major] at hk hm
    have := congrArg Prod.snd same
    rw [lineCell_snd_of_yMajor major hk, lineCell_snd_of_yMajor major hm] at this
    exact steps_injective hk hm this

theorem linePoints_nodup (x0 y0 x1 y1 : Int) : (linePoints x0 y0 x1 y1).Nodup := by
  rw [linePoints_eq]
  refine List.nodup_range.map_on fun k hk m hm same => ?_
  rw [List.mem_range, Nat.lt_succ_iff] at hk hm
  exact lineCell_injective hk hm same

/-- In one step a coordinate moves by at most one cell. -/
theorem covered_succ_near {n d k : Nat} (u v : Int) (hn : 0 < n) (h : d ≤ n) :
    (u + covered n d (k + 1) * v.sign - (u + covered n d k * v.sign)).natAbs ≤ 1 := by
  have near : ((covered n d (k + 1) : Int) - covered n d k).natAbs ≤ 1 := by
    rw [covered_succ k hn h, Nat.cast_add, add_sub_cancel_left, Int.natAbs_natCast]
    split <;> decide
  have direction : v.sign.natAbs ≤ 1 := by
    rw [Int.natAbs_sign]
    split <;> decide
  rw [add_sub_add_left_eq_sub, ← sub_mul, Int.natAbs_mul]
  exact Nat.mul_le_mul near direction

/-- Settles O21: read off the closed form of the line. -/
theorem linePointsShape : Obligations.LinePointsShape := by
  intro x0 y0 x1 y1
  refine ⟨?_, ?_, by simp [linePoints_eq, lineSteps], linePoints_nodup x0 y0 x1 y1, ?_⟩
  · rw [List.head?_eq_getElem?, linePoints_getElem?_eq_some_iff]
    exact ⟨Nat.zero_le _, lineCell_start x0 y0 x1 y1⟩
  · rw [linePoints_eq, List.range_succ, List.map_append, List.map_singleton, List.getLast?_concat, lineCell_end]
  · intro k p q hp hq
    obtain ⟨-, rfl⟩ := linePoints_getElem?_eq_some_iff.1 hp
    obtain ⟨hk, rfl⟩ := linePoints_getElem?_eq_some_iff.1 hq
    have step (u d : Int) : u + (k + 1 : Nat) * d - (u + k * d) = d := by
      rw [add_sub_add_left_eq_sub, ← sub_mul, Nat.cast_succ, add_sub_cancel_left, one_mul]
    have some_step := Nat.zero_lt_of_lt hk
    refine ⟨covered_succ_near _ _ some_step (le_lineSteps_left _ _),
      covered_succ_near _ _ some_step (le_lineSteps_right _ _), fun major => ?_, fun major => ?_⟩
    · rw [lineSteps_of_xMajor major] at hk
      rw [lineCell_fst_of_xMajor major hk, lineCell_fst_of_xMajor major (Nat.le_of_succ_le hk), step]
    · rw [lineSteps_of_yMajor major.le] at hk
      rw [lineCell_snd_of_yMajor major.le hk, lineCell_snd_of_yMajor major.le (Nat.le_of_succ_le hk), step]

/-! ### Straight lines (R117) -/

theorem exists_natCast_eq_iff (d : Nat) (w : Int) : (∃ k ≤ d, (k : Int) = w) ↔ 0 ≤ w ∧ w ≤ d := by
  constructor
  · rintro ⟨k, hk, rfl⟩
    exact ⟨Int.natCast_nonneg k, Int.ofNat_le.2 hk⟩
  · rintro ⟨lo, hi⟩
    exact ⟨w.toNat, Int.toNat_le.2 hi, Int.toNat_of_nonneg lo⟩

/-- The places of the steps from one number toward another are the numbers between the two. -/
theorem steps_cover_iff (u v z : Int) :
    (∃ k ≤ (v - u).natAbs, u + (k : Int) * (v - u).sign = z) ↔ min u v ≤ z ∧ z ≤ max u v := by
  rcases lt_trichotomy u v with h | rfl | h
  · have distance : ((v - u).natAbs : Int) = v - u := Int.natAbs_of_nonneg (sub_nonneg.2 h.le)
    have step (k : Nat) : u + (k : Int) * 1 = z ↔ (k : Int) = z - u := by rw [mul_one, eq_sub_iff_add_eq']
    rw [Int.sign_eq_one_of_pos (sub_pos.2 h), min_eq_left h.le, max_eq_right h.le]
    simp only [step, exists_natCast_eq_iff, distance, sub_nonneg, sub_le_sub_iff_right]
  · rw [sub_self, min_self, max_self, ← le_antisymm_iff]
    exact ⟨fun ⟨k, _, place⟩ => by simpa using place, fun place => ⟨0, Nat.zero_le _, by simpa using place⟩⟩
  · have distance : ((v - u).natAbs : Int) = u - v := by
      rw [← Int.natAbs_neg, neg_sub, Int.natAbs_of_nonneg (sub_nonneg.2 h.le)]
    have step (k : Nat) : u + (k : Int) * -1 = z ↔ (k : Int) = u - z := by
      rw [mul_neg_one, ← sub_eq_add_neg, sub_eq_iff_eq_add', eq_sub_iff_add_eq, eq_comm]
    rw [Int.sign_eq_neg_one_of_neg (sub_neg.2 h), min_eq_right h.le, max_eq_left h.le]
    simp only [step, exists_natCast_eq_iff, distance, sub_nonneg, sub_le_sub_iff_left, and_comm]

theorem lineCell_horizontal {x0 x1 y : Int} {k : Nat} (hk : k ≤ (x1 - x0).natAbs) :
    lineCell x0 y x1 y k = (x0 + k * (x1 - x0).sign, y) :=
  Prod.ext (lineCell_fst_of_xMajor (by simp) hk) (by simp [lineCell_snd])

theorem lineCell_vertical {x y0 y1 : Int} {k : Nat} (hk : k ≤ (y1 - y0).natAbs) :
    lineCell x y0 x y1 k = (x, y0 + k * (y1 - y0).sign) :=
  Prod.ext (by simp [lineCell_fst]) (lineCell_snd_of_yMajor (by simp) hk)

theorem lineCell_diagonal {x0 y0 x1 y1 : Int} {k : Nat} (diagonal : (x1 - x0).natAbs = (y1 - y0).natAbs)
    (hk : k ≤ (x1 - x0).natAbs) :
    lineCell x0 y0 x1 y1 k = (x0 + k * (x1 - x0).sign, y0 + k * (y1 - y0).sign) :=
  Prod.ext (lineCell_fst_of_xMajor diagonal.ge hk) (lineCell_snd_of_yMajor diagonal.le (diagonal ▸ hk))

/-- Settles O22: on a straight line every step has its cell in plain form. -/
theorem straightLinesCoverTheirCells : Obligations.StraightLinesCoverTheirCells := by
  intro x0 y0 x1 y1 x y
  refine ⟨?_, ?_, fun diagonal => ?_⟩
  · rintro rfl
    have steps : lineSteps (x1 - x0).natAbs (y0 - y0).natAbs = (x1 - x0).natAbs := by simp [lineSteps]
    rw [mem_linePoints_iff, steps, ← steps_cover_iff]
    constructor
    · rintro ⟨k, hk, cell⟩
      obtain ⟨hx, rfl⟩ := Prod.mk.inj ((lineCell_horizontal hk).symm.trans cell)
      exact ⟨rfl, k, hk, hx⟩
    · rintro ⟨rfl, k, hk, rfl⟩
      exact ⟨k, hk, lineCell_horizontal hk⟩
  · rintro rfl
    have steps : lineSteps (x0 - x0).natAbs (y1 - y0).natAbs = (y1 - y0).natAbs := by simp [lineSteps]
    rw [mem_linePoints_iff, steps, ← steps_cover_iff]
    constructor
    · rintro ⟨k, hk, cell⟩
      obtain ⟨rfl, hy⟩ := Prod.mk.inj ((lineCell_vertical hk).symm.trans cell)
      exact ⟨rfl, k, hk, hy⟩
    · rintro ⟨rfl, k, hk, rfl⟩
      exact ⟨k, hk, lineCell_vertical hk⟩
  · rw [mem_linePoints_iff, lineSteps_of_xMajor diagonal.ge]
    refine exists_congr fun k => and_congr_right fun hk => ?_
    rw [lineCell_diagonal diagonal hk, Prod.mk_inj, eq_comm, @eq_comm _ y]

/-! ### What a drawing command leaves (R72) -/

theorem completed_drew {s : State} (f : Frame) (hs : Settled s) :
    completed { s with fb := f } = { s with fb := f, status := doneStatus s.status, latch := none } :=
  completed_of_settled (s := { s with fb := f }) hs

/-- Settles O16: the bytes of `clearPixels`. -/
theorem clearZeroesPixelBytes : Obligations.ClearZeroesPixelBytes := by
  intro s hs
  refine ⟨_, exec_clear s, ?_⟩
  rw [completed_drew _ hs]
  refine ⟨fun i lo _ => ?_, byteAt_clearPixels _ _, rfl, rfl, rfl⟩
  exact (byteAt_clearPixels _ _).trans (if_neg (by omega))

/-! ### Pixels (R105 to R107) -/

theorem inRange_iff (x y : Int) : inRange x y = true ↔ 0 ≤ x ∧ x < 128 ∧ 0 ≤ y ∧ y < 32 := by
  simp [inRange, and_assoc]

theorem inRange_nat {x y : Nat} (hx : x < 128) (hy : y < 32) : inRange x y = true :=
  (inRange_iff _ _).2 (by omega)

theorem pixIndex_cast {x y : Int} (h : inRange x y = true) : (pixIndex x y : Int) = 1 + y / 8 * 128 + x := by
  obtain ⟨hx, -, hy, -⟩ := (inRange_iff x y).1 h
  exact Int.toNat_of_nonneg (by simp only [Nat.cast_ofNat]; omega)

theorem pixelBit_eq_getPix {s : State} {x y : Nat} (hx : x < 128) (hy : y < 32) :
    pixelBit s x y = getPix x y s.fb := by
  have index : pixIndex x y = 1 + y / 8 * 128 + x := Int.ofNat_inj.1 (pixIndex_cast (inRange_nat hx hy))
  have row : ((y : Int) % 8).toNat = y % 8 := rfl
  rw [getPix, inRange_nat hx hy, index, row, Bool.true_and, pixelBit]

theorem pixMask_bit (y v : Int) : (pixMask v).getLsbD (y % 8).toNat = decide (y % 8 = v % 8) := by
  have low : (v % 8).toNat < 8 := by omega
  have same : (y % 8).toNat = (v % 8).toNat ↔ y % 8 = v % 8 := by
    rw [← Int.ofNat_inj, Int.toNat_of_nonneg (Int.emod_nonneg y (by decide)),
      Int.toNat_of_nonneg (Int.emod_nonneg v (by decide))]
  rw [pixMask, ← BitVec.twoPow_eq, BitVec.getLsbD_twoPow, decide_eq_true low, Bool.true_and]
  exact decide_eq_decide.2 (eq_comm.trans same)

/-- The bit SetPix writes in a byte, and the other bits, as they were (R107). -/
theorem setPix_bit (b : Byte) (on : Bool) (y v : Int) :
    (if on then b ||| pixMask v else b &&& ~~~(pixMask v)).getLsbD (y % 8).toNat =
      if y % 8 = v % 8 then on else b.getLsbD (y % 8).toNat := by
  have low : (y % 8).toNat < 8 := by omega
  cases on with
  | true =>
    rw [if_pos rfl, BitVec.getLsbD_or, pixMask_bit]
    by_cases row : y % 8 = v % 8
    · rw [decide_eq_true row, if_pos row, Bool.or_true]
    · rw [decide_eq_false row, if_neg row, Bool.or_false]
  | false =>
    rw [if_neg Bool.false_ne_true, BitVec.getLsbD_and, BitVec.getLsbD_not, pixMask_bit, decide_eq_true low,
      Bool.true_and]
    by_cases row : y % 8 = v % 8
    · rw [decide_eq_true row, if_pos row, Bool.not_true, Bool.and_false]
    · rw [decide_eq_false row, if_neg row, Bool.not_false, Bool.and_true]

/-- In range, a pixel's byte and bit tell it from every other (R105). -/
theorem pixel_eq_iff {x y u v : Int} (h : inRange x y = true) (k : inRange u v = true) :
    x = u ∧ y = v ↔ pixIndex x y = pixIndex u v ∧ y % 8 = v % 8 := by
  constructor
  · rintro ⟨rfl, rfl⟩
    exact ⟨rfl, rfl⟩
  · rintro ⟨index, row⟩
    have place : 1 + y / 8 * 128 + x = 1 + v / 8 * 128 + u := by
      rw [← pixIndex_cast h, ← pixIndex_cast k, index]
    obtain ⟨hx, hx', -⟩ := (inRange_iff x y).1 h
    obtain ⟨hu, hu', -⟩ := (inRange_iff u v).1 k
    have page : y / 8 = v / 8 := by omega
    exact ⟨by omega, by omega⟩

/-- A pixel after SetPix: the value set where it was set, the old value everywhere else (R107). -/
theorem getPix_setPix (x y u v : Int) (on : Bool) (f : Frame) :
    getPix x y (setPix u v on f) = if inRange x y = true ∧ x = u ∧ y = v then on else getPix x y f := by
  by_cases h : inRange x y = true
  · by_cases k : inRange u v = true
    · rw [getPix, getPix, h, Bool.true_and, Bool.true_and, byteAt_setPix]
      by_cases index : pixIndex x y = pixIndex u v
      · rw [if_pos ⟨k, index⟩, setPix_bit]
        refine if_congr ?_ rfl rfl
        exact ⟨fun row => ⟨rfl, (pixel_eq_iff h k).2 ⟨index, row⟩⟩, fun hit => ((pixel_eq_iff h k).1 hit.2).2⟩
      · rw [if_neg fun hit => index hit.2, if_neg fun hit => index ((pixel_eq_iff h k).1 hit.2).1]
    · have other : ¬(x = u ∧ y = v) := by rintro ⟨rfl, rfl⟩; exact k h
      rw [setPix_outOfRange on f (Bool.eq_false_iff.2 k), if_neg fun hit => other hit.2]
  · rw [getPix, getPix, Bool.eq_false_iff.2 h, Bool.false_and, Bool.false_and,
      if_neg fun hit => Bool.false_ne_true hit.1]

/-- Setting cells in order: each in-range cell has the value set, every other pixel its old value (R114). -/
theorem getPix_setCells (x y : Int) (on : Bool) (cells : List (Int × Int)) (f : Frame) :
    getPix x y (setCells on cells f) = if inRange x y = true ∧ (x, y) ∈ cells then on else getPix x y f := by
  induction cells generalizing f with
  | nil => simp [setCells]
  | cons c cells ih =>
    have first : setCells on (c :: cells) f = setCells on cells (setPix c.1 c.2 on f) := rfl
    have cell : (x, y) = c ↔ x = c.1 ∧ y = c.2 := Prod.ext_iff
    rw [first, ih, getPix_setPix]
    simp only [List.mem_cons, cell]
    by_cases seen : inRange x y = true <;> by_cases later : (x, y) ∈ cells <;> simp [seen, later]

/-! ### PSET, PGET and LINE (R109, R111, R112, R114, R120) -/

/-- Settles O17: `getPix_setPix` at each pixel of the display. -/
theorem psetWritesExactlyItsPixel : Obligations.PsetWritesExactlyItsPixel := by
  intro s l on hs latched
  refine ⟨_, exec_pset on latched, ?_⟩
  rw [completed_drew _ hs]
  refine ⟨fun x y hx hy => ?_, byteAt_setPix_zero _ _ _ _, rfl, rfl, rfl⟩
  rw [pixelBit_eq_getPix hx hy, pixelBit_eq_getPix hx hy, getPix_setPix, inRange_nat hx hy]
  simp [Latch.x0, Latch.y0, coordinate]

/-- Settles O18: PIXEL is `getPix` at the coordinates. -/
theorem pgetReadsPixel : Obligations.PgetReadsPixel := by
  intro s l hs latched
  refine ⟨_, exec_pget latched, ?_⟩
  rw [completed_of_settled (s := { s with status := { s.status with pixel := getPix l.x0 l.y0 s.fb } }) hs]
  refine ⟨fun x y hx hy atX atY => ?_, fun outside => ?_, rfl, rfl, rfl⟩
  · rw [pixelBit_eq_getPix hx hy, ← atX, ← atY]
    rfl
  · have out : inRange l.x0 l.y0 = false :=
      Bool.eq_false_iff.2 fun h => outside ((inRange_iff _ _).1 h)
    exact (congrArg (· && _) out).trans (Bool.false_and _)

/-- Settles O19: PGET reads back `getPix_setPix`. -/
theorem psetThenPgetReportsOn : Obligations.PsetThenPgetReportsOn := by
  intro s l on latched
  have range := inRange_iff l.x0 l.y0
  refine ⟨fun inside => ⟨_, _, exec_pset on latched, exec_pget rfl, ?_⟩, fun outside => ⟨_, exec_pset on latched, ?_⟩⟩
  · simp [getPix_setPix, range.2 inside]
  · exact setPix_outOfRange on s.fb (Bool.eq_false_iff.2 fun h => outside (range.1 h))

/-- Settles O20: `getPix_setCells` at each pixel of the display. -/
theorem lineDrawsExactlyItsCells : Obligations.LineDrawsExactlyItsCells := by
  intro s l on hs latched
  refine ⟨_, exec_line on latched, ?_⟩
  rw [completed_drew _ hs]
  refine ⟨fun x y hx hy => ?_, byteAt_setCells_zero _ _ _, rfl, rfl, rfl⟩
  rw [pixelBit_eq_getPix hx hy, pixelBit_eq_getPix hx hy, getPix_setCells, inRange_nat hx hy]
  simp [Latch.x0, Latch.y0, Latch.x1, Latch.y1, coordinate]

theorem linePoints_self (x y : Int) : linePoints x y x y = [(x, y)] := by
  simp [linePoints_eq, lineSteps, lineCell_start]

/-- Settles O23: the line has one cell. -/
theorem psetEqualsDegenerateLine : Obligations.PsetEqualsDegenerateLine := by
  intro s l on latched
  refine ⟨_, _, exec_pset on latched, exec_line on rfl, ?_⟩
  change setPix l.x0 l.y0 on s.fb = setCells on (linePoints l.x0 l.y0 l.x0 l.y0) s.fb
  rw [linePoints_self]
  rfl

/-! ### Glyphs (R122, R123) -/

theorem printable_iff (ch : Byte) : printable ch = true ↔ 0x20 ≤ ch.toNat ∧ ch.toNat ≤ 0x7E := by
  simp [printable]

/-- One column of a glyph at x goes to its column of page `y div 8`. -/
theorem byteAt_glyphColumn_page (p : Params) (x y : Int) (ch : Byte) (f : Frame) (i page col : Nat) (hcol : col < 128)
    (hy : 0 ≤ y) (hy' : y < Config.height) :
    byteAt (glyphColumn p x y ch f i) (1 + page * 128 + col) =
      if (page : Int) = y / 8 ∧ (col : Int) = x + i then fontColumn p ch i else byteAt f (1 + page * 128 + col) := by
  rw [byteAt_glyphColumn p x y ch f i _ hy hy']
  refine if_congr ?_ rfl rfl
  simp only [Nat.cast_ofNat]
  generalize y / 8 = row
  constructor
  · rintro ⟨⟨left, right⟩, place⟩
    exact ⟨by omega, by omega⟩
  · rintro ⟨rfl, place⟩
    exact ⟨by omega, by omega⟩

/-- The first `n` columns of a glyph at x, each in its place. -/
theorem byteAt_glyphColumns (p : Params) (x y : Int) (ch : Byte) (f : Frame) (n page col : Nat) (hcol : col < 128)
    (hy : 0 ≤ y) (hy' : y < Config.height) :
    byteAt ((List.range n).foldl (glyphColumn p x y ch) f) (1 + page * 128 + col) =
      if (page : Int) = y / 8 ∧ x ≤ col ∧ (col : Int) < x + n then fontColumn p ch (col - x).toNat
      else byteAt f (1 + page * 128 + col) := by
  induction n with
  | zero => exact (if_neg fun ⟨_, left, right⟩ => by omega).symm
  | succ n ih =>
    rw [List.range_succ, List.foldl_append, List.foldl_cons, List.foldl_nil,
      byteAt_glyphColumn_page p x y ch _ n page col hcol hy hy', ih]
    by_cases last : (col : Int) = x + n
    · have column : ((col : Int) - x).toNat = n := by rw [last, add_sub_cancel_left, Int.toNat_natCast]
      by_cases row : (page : Int) = y / 8
      · rw [if_pos ⟨row, last⟩, if_pos ⟨row, by omega, by omega⟩, column]
      · rw [if_neg fun h => row h.1, if_neg fun h => row h.1, if_neg fun h => row h.1]
    · rw [if_neg fun h => last h.2]
      refine if_congr (and_congr_right fun _ => and_congr_right fun _ => ?_) rfl rfl
      rw [Nat.cast_succ]
      exact ⟨fun h => by omega, fun h => by omega⟩

/-- The byte a glyph at x, y draws over column `col` of page `page`, if it has one there (R122, R123). -/
def glyphInk (p : Params) (x y : Int) (ch : Byte) (page col : Nat) : Option Byte :=
  if printable ch = true ∧ (page : Int) = y / 8 ∧ x ≤ col ∧ (col : Int) < x + p.glyphWidth then
    some (fontColumn p ch (col - x).toNat)
  else none

/-- A byte of FB after a glyph: the byte drawn there, if any, or else the old one. -/
theorem byteAt_glyphAt (p : Params) (x y : Int) (ch : Byte) (f : Frame) {page col : Nat} (hpage : page < 4)
    (hcol : col < 128) :
    byteAt (glyphAt p x y ch f) (1 + page * 128 + col) =
      (glyphInk p x y ch page col).getD (byteAt f (1 + page * 128 + col)) := by
  unfold glyphAt glyphInk
  split
  case isTrue drawn =>
    obtain ⟨ink, hy, hy'⟩ := drawn
    rw [byteAt_glyphColumns p x y ch f _ page col hcol hy hy']
    simp only [ink, true_and]
    split <;> rfl
  case isFalse blank =>
    rw [if_neg, Option.getD_none]
    rintro ⟨ink, row, -⟩
    refine blank ⟨ink, ?_⟩
    simp only [Nat.cast_ofNat]
    omega

theorem glyphInk_eq_some_iff {p : Params} {x y : Int} {ch : Byte} {page col : Nat} {v : Byte} :
    glyphInk p x y ch page col = some v ↔
      printable ch = true ∧ (page : Int) = y / 8 ∧ ∃ i < p.glyphWidth, (col : Int) = x + i ∧ fontColumn p ch i = v := by
  simp only [glyphInk, Option.ite_none_right_eq_some, Option.some.injEq, and_assoc]
  refine and_congr_right fun _ => and_congr_right fun _ => ⟨?_, ?_⟩
  · rintro ⟨lo, hi, column⟩
    exact ⟨_, by omega, by omega, column⟩
  · rintro ⟨i, hi, place, column⟩
    have offset : ((col : Int) - x).toNat = i := by omega
    exact ⟨by omega, by omega, offset ▸ column⟩

/-- Settles O25: `glyphInk` at each byte of the display. -/
theorem glyphWritesItsColumns : Obligations.GlyphWritesItsColumns := by
  intro s l hs latched
  refine ⟨_, exec_glyph latched, ?_⟩
  rw [completed_drew _ hs]
  refine ⟨fun page col hpage hcol => ?_, byteAt_glyphAt_zero _ _ _ _ _, rfl, rfl, rfl⟩
  refine (byteAt_glyphAt _ _ _ _ _ hpage hcol).trans ?_
  have ink : (printable l.ch = true ∧ (page : Int) = l.y0 / 8 ∧ l.x0 ≤ col ∧ (col : Int) < l.x0 + s.params.glyphWidth) ↔
      0x20 ≤ l.ch.toNat ∧ l.ch.toNat ≤ 0x7E ∧ 0 ≤ l.y0 ∧ l.y0 < 32 ∧ (page : Int) = l.y0 / 8 ∧
        0 ≤ (col : Int) - l.x0 ∧ (col : Int) - l.x0 < s.params.glyphWidth := by
    rw [printable_iff]
    constructor
    · rintro ⟨⟨lo, hi⟩, row, left, right⟩
      exact ⟨lo, hi, by omega, by omega, row, by omega, by omega⟩
    · rintro ⟨lo, hi, -, -, row, left, right⟩
      exact ⟨⟨lo, hi⟩, row, by omega, by omega⟩
  simp only [glyphInk, ink]
  split
  case isTrue drawn => exact (if_pos drawn).symm
  case isFalse blank => exact (if_neg blank).symm

/-! ### Text (R126 to R130) -/

/-- The byte a string from x on draws over column `col` of page `page`, if it has one there: the last glyph drawn there
says which (R127, R128). -/
def textInk (p : Params) (y : Int) (page col : Nat) : List Byte → Int → Option Byte
  | [], _ => none
  | c :: cs, x => (textInk p y page col cs (x + pitch p)).or (glyphInk p x y c page col)

/-- A byte of FB after a string: the byte drawn there, if any, or else the old one. -/
theorem byteAt_drawText (p : Params) (y : Int) (cs : List Byte) (x : Int) (f : Frame) {page col : Nat}
    (hpage : page < 4) (hcol : col < 128) :
    byteAt (drawText p y cs x f) (1 + page * 128 + col) =
      (textInk p y page col cs x).getD (byteAt f (1 + page * 128 + col)) := by
  induction cs generalizing x f with
  | nil => rfl
  | cons c cs ih => rw [drawText, ih, byteAt_glyphAt p x y c f hpage hcol, textInk, Option.getD_or]

/-- Glyphs of a string do not overlap, so what is drawn at a column is a column of the one glyph there (R130). -/
theorem textInk_eq_some_iff {p : Params} {y : Int} {page col : Nat} {cs : List Byte} {x : Int} {v : Byte} :
    textInk p y page col cs x = some v ↔
      ∃ j i : Nat, ∃ c : Byte, cs[j]? = some c ∧ i < p.glyphWidth ∧ printable c = true ∧ (page : Int) = y / 8 ∧
        (col : Int) = x + (j * pitch p : Nat) + i ∧ fontColumn p c i = v := by
  induction cs generalizing x v with
  | nil => simp [textInk]
  | cons c cs ih =>
    rw [textInk, Option.or_eq_some_iff, ih, glyphInk_eq_some_iff]
    constructor
    · rintro (⟨j, i, d, found, hi, ink, row, place, column⟩ | ⟨-, ink, row, i, hi, place, column⟩)
      · exact ⟨j + 1, i, d, found, hi, ink, row, by rw [Nat.succ_mul]; omega, column⟩
      · exact ⟨0, i, c, rfl, hi, ink, row, by omega, column⟩
    · rintro ⟨_ | j, i, d, found, hi, ink, row, place, column⟩
      · obtain rfl : c = d := Option.some.inj found
        refine .inr ⟨Option.eq_none_iff_forall_ne_some.2 fun w later => ?_, ink, row, i, hi, by omega, column⟩
        obtain ⟨j', i', -, -, -, -, -, place', -⟩ := ih.1 later
        have : p.glyphWidth ≤ pitch p := Nat.le_add_right _ _
        omega
      · exact .inl ⟨j, i, d, found, hi, ink, row, by rw [Nat.succ_mul] at place; omega, column⟩

/-- Settles O26: `textInk` at each byte of the display. -/
theorem textWritesItsGlyphs : Obligations.TextWritesItsGlyphs := by
  intro s l src hs latched str width
  have string : textOf src s = str := by cases src <;> rfl
  refine ⟨_, exec_text src latched, ?_⟩
  rw [completed_drew _ hs, string]
  refine ⟨?_, ?_, byteAt_drawText_zero _ _ _ _ _, rfl, rfl, rfl⟩
  · intro page col j i c hpage hcol found hi lo hi' row place
    have ink : textInk s.params l.y0 page col str l.x0 = some (fontColumn s.params c i) :=
      textInk_eq_some_iff.2 ⟨j, i, c, found, hi, (printable_iff c).2 ⟨lo, hi'⟩, row, place, rfl⟩
    exact (byteAt_drawText _ _ _ _ _ hpage hcol).trans (by rw [ink]; rfl)
  · intro page col hpage hcol nothing
    have ink : textInk s.params l.y0 page col str l.x0 = none := by
      refine Option.eq_none_iff_forall_ne_some.2 fun v drawn => nothing ?_
      obtain ⟨j, i, c, found, hi, printed, row, place, -⟩ := textInk_eq_some_iff.1 drawn
      obtain ⟨lo, hi'⟩ := (printable_iff c).1 printed
      exact ⟨j, i, c, found, hi, lo, hi', row, place⟩
    exact (byteAt_drawText _ _ _ _ _ hpage hcol).trans (by rw [ink]; rfl)

/-- FB is byte 0 and the bytes of its four pages (R105). -/
theorem frame_ext {f g : Frame} (zero : byteAt f 0 = byteAt g 0)
    (pages : ∀ page col : Nat, page < 4 → col < 128 →
      byteAt f (1 + page * 128 + col) = byteAt g (1 + page * 128 + col)) : f = g := by
  refine buf_ext fun k hk => ?_
  rcases k with _ | k
  · exact zero
  · have place : k + 1 = 1 + k / 128 * 128 + k % 128 := by rw [Nat.add_assoc, Nat.div_add_mod', Nat.add_comm]
    rw [place]
    exact pages _ _ (Nat.div_lt_of_lt_mul (Nat.lt_of_succ_lt_succ hk)) (Nat.mod_lt _ (by decide))

/-- What a string draws does not depend on what is below it, so drawing it again changes nothing. -/
theorem drawText_twice (p : Params) (y : Int) (cs : List Byte) (x : Int) (f : Frame) :
    drawText p y cs x (drawText p y cs x f) = drawText p y cs x f := by
  refine frame_ext (byteAt_drawText_zero _ _ _ _ _) fun page col hpage hcol => ?_
  rw [byteAt_drawText p y cs x _ hpage hcol, byteAt_drawText p y cs x f hpage hcol]
  cases textInk p y page col cs x <;> rfl

theorem textBytes_of_zero {n : Nat} {b : Buf n} (h : byteAt b 0 = 0#8) : textBytes b = [] := by
  unfold byteAt at h
  unfold textBytes
  cases bytes : b.toList with
  | nil => rfl
  | cons c cs => simp_all

/-- Settles O27: `drawText_twice`, and a string that begins with 0x00 is empty. -/
theorem textIsIdempotent : Obligations.TextIsIdempotent := by
  intro s l src latched
  refine ⟨_, _, exec_text src latched, exec_text src rfl, ?_, fun empty => ?_⟩
  · cases src <;> exact drawText_twice _ _ _ _ _
  · have string : textOf src s = [] := by cases src <;> exact textBytes_of_zero empty
    rw [string]
    rfl

end Sys2Proof.Machine

/-! The display transport (41_display_transport.md): what DINIT and PUSH send (R136, R137, R140), and the errors of a
second initialisation and of a PUSH that comes too early (R139, R141). -/

namespace Sys2Proof.Machine

/-! ### What is sent (R136, R137, R140) -/

theorem getElem?_toList_of_lt {n : Nat} (b : Buf n) {i : Nat} (h : i < n) : b.toList[i]? = some (byteAt b i) := by
  rw [byteAt_of_lt b h, List.getElem?_eq_getElem (by simpa using h), Vector.getElem_toList]

theorem settled_busWrite {s : State} (bytes : List Byte) (hs : Settled s) : Settled (busWrite bytes s) := hs

/-- Settles O30: the one transaction PUSH sends is the framebuffer's bytes as a list. -/
theorem pushSendsWholeFrame : Obligations.PushSendsWholeFrame := by
  intro s hs initialised
  have answer := ((exec_push_cases s).resolve_right (by simp [initialised])).2
  rw [completed_of_settled (settled_busWrite _ hs)] at answer
  exact ⟨_, s.fb.toList, answer, rfl, Vector.length_toList, fun _ => getElem?_toList_of_lt s.fb, rfl, rfl, rfl⟩

/-- Settles O28: `sendInitSeq_eq`, with INIT_SEQ written out. -/
theorem dinitSendsInitSequence : Obligations.DinitSendsInitSequence := by
  intro s hs fresh
  have answer := ((exec_dinit_cases s).resolve_left (by simp [fresh])).2
  have settled (log : List BusWrite) :
      Settled { s with dlog := log, status := { s.status with dispInit := true } } := hs
  rw [answer, sendInitSeq_eq, completed_of_settled (settled _)]
  rfl

/-! ### What raises an error (R139, R141; 42_radio_framer.md R152; 60_exceptions.md R190) -/

/-- Settles O29: both commands fail with ONESHOT, and `failed_of_settled` gives what that leaves. -/
theorem secondInitRaisesOneshot : Obligations.SecondInitRaisesOneshot := by
  intro s hs
  rw [← failed_of_settled .oneshot hs]
  exact ⟨fun initialised => ((exec_dinit_cases s).resolve_right (by simp [initialised])).2,
    fun initialised => ((exec_rinit_cases s).resolve_right (by simp [initialised])).2⟩

/-- Settles O31: PUSH fails with NOT_INIT, and `failed_of_settled` gives what that leaves. -/
theorem pushBeforeDinitRaisesNotInit : Obligations.PushBeforeDinitRaisesNotInit := by
  intro s hs fresh
  rw [← failed_of_settled .notInit hs]
  exact ((exec_push_cases s).resolve_left (by simp [fresh])).2

end Sys2Proof.Machine

/-! The radio framer and the wake detector (42_radio_framer.md): what the detector has seen after each operation (R171),
what the radio commands answer behind their gate (R153), and what each command, and each of the transceiver's own
steps, leaves. -/

namespace Sys2Proof.Machine
set_option Elab.async false

/-! ### The transceiver's own steps (R157, R172, R173) -/

/-- Every flag latched in `r` is latched in `r'`. -/
def FlagsKept (r r' : Radio) : Prop :=
  (r.fSent = true → r'.fSent = true) ∧ (r.fFailed = true → r'.fFailed = true) ∧ (r.fReady = true → r'.fReady = true)

theorem FlagsKept.refl (r : Radio) : FlagsKept r r := ⟨id, id, id⟩

theorem flagsKept_arrived (depth : Nat) (p : Payload) (r : Radio) : FlagsKept r (r.arrived depth p) := by
  rw [Radio.arrived]
  split
  · exact ⟨id, id, fun _ => rfl⟩
  · exact .refl r

theorem flagsKept_endSend (sent : Bool) (r : Radio) : FlagsKept r (r.endSend sent) :=
  ⟨Bool.or_inl, Bool.or_inl, id⟩

theorem arrivalTurn_listening {p : Payload} {s : State}
    (on : s.radio.present = true ∧ s.radio.cfg = true ∧ s.radio.mode = .rx) :
    arrivalTurn p s = detect { s with radio := s.radio.arrived s.params.rxDepth p } :=
  if_pos on

theorem arrivalTurn_deaf {p : Payload} {s : State}
    (off : ¬(s.radio.present = true ∧ s.radio.cfg = true ∧ s.radio.mode = .rx)) : arrivalTurn p s = s :=
  if_neg off

theorem lateTurn_inFlight {sent : Bool} {s : State} (inFlight : s.radio.txp = true) :
    lateTurn sent s = detect { s with radio := s.radio.endSend sent } :=
  if_pos inFlight

theorem lateTurn_idle {sent : Bool} {s : State} (idle : s.radio.txp = false) : lateTurn sent s = s :=
  if_neg (ne_true_of_eq_false idle)

theorem flagsKept_arrivalTurn (p : Payload) (s : State) : FlagsKept s.radio (arrivalTurn p s).radio := by
  rw [arrivalTurn]
  split
  · exact flagsKept_arrived ..
  · exact .refl _

theorem flagsKept_lateTurn (sent : Bool) (s : State) : FlagsKept s.radio (lateTurn sent s).radio := by
  rw [lateTurn]
  split
  · exact flagsKept_endSend ..
  · exact .refl _

theorem flagsKept_pinTurn (level : Bool) (s : State) : FlagsKept s.radio (pinTurn level s).radio := by
  rw [pinTurn]
  split
  · exact .refl _
  · exact ⟨id, id, id⟩

/-- What every turn but the engine's ends with. -/
theorem takeTurn_elim {P : State → Prop} {u : Turn} {s t : State} (engine : u ≠ .engine) (e : takeTurn u s = .next t)
    (read : ∀ width off, P (hostRead width off s)) (write : ∀ width off v, P (hostWrite width off v s))
    (arrival : ∀ p, P (arrivalTurn p s)) (late : ∀ sent, P (lateTurn sent s)) (pin : ∀ level, P (pinTurn level s))
    (reset : P (blockReset s)) : P t := by
  have answered {t' : State} (h : takeTurn u s = .next t') (ht : P t') : P t :=
    Host.Outcome.next.inj (h.symm.trans e) ▸ ht
  cases u with
  | hostRead width off => exact answered rfl (read width off)
  | hostWrite width off v => exact answered rfl (write width off v)
  | engine => exact absurd rfl engine
  | arrival p => exact answered rfl (arrival p)
  | lateCompletion sent => exact answered rfl (late sent)
  | pinNoise level => exact answered rfl (pin level)
  | blockReset => exact answered rfl reset

/-- Every turn but the engine's keeps the latched flags. -/
theorem takeTurn_flagsKept {u : Turn} {s t : State} (engine : u ≠ .engine) (e : takeTurn u s = .next t) :
    FlagsKept s.radio t.radio :=
  takeTurn_elim (P := fun t => FlagsKept s.radio t.radio) engine e
    (fun width off => (hostRead_radio width off s).1 ▸ .refl _)
    (fun width off v => (hostWrite_radio width off v s).1 ▸ .refl _)
    (flagsKept_arrivalTurn · s) (flagsKept_lateTurn · s) (flagsKept_pinTurn · s) (.refl _)

/-- Settles O48: the host and a block reset leave RADIO, and the transceiver's own steps only latch flags. -/
theorem onlyCommandsClearFlags : Obligations.OnlyCommandsClearFlags := by
  intro s t u rest hin engine e
  exact takeTurn_flagsKept (s := { s with inputs := rest }) engine ((step_of_inputs hin).symm.trans e)

/-- Settles O45: the arrival's effect on RADIO, and one evaluation of the detector after it. -/
theorem arrivalQueuesOrIsLost : Obligations.ArrivalQueuesOrIsLost := by
  intro s rest p _ hin
  have turn := step_of_inputs hin
  constructor
  · intro listening
    exact ⟨_, turn.trans (congrArg Host.Outcome.next (arrivalTurn_listening listening)), rfl, detectorSaw_detect rfl rfl rfl, rfl⟩
  · intro deaf
    exact turn.trans (congrArg Host.Outcome.next (arrivalTurn_deaf deaf))

theorem endSend_eq (sent : Bool) (r : Radio) :
    r.endSend sent =
      if sent then { r with txp := false, fSent := true } else { r with txp := false, fFailed := true } := by
  cases sent
  · exact congrArg₂ (fun a b => { r with txp := false, fSent := a, fFailed := b }) (Bool.or_false _) (Bool.or_true _)
  · exact congrArg₂ (fun a b => { r with txp := false, fSent := a, fFailed := b }) (Bool.or_true _) (Bool.or_false _)

/-- Settles O46: `Radio.endSend`, and one evaluation of the detector after it. -/
theorem lateCompletionLatchesOneFlag : Obligations.LateCompletionLatchesOneFlag := by
  intro s rest sent _ hin
  have turn := step_of_inputs hin
  constructor
  · intro inFlight
    exact ⟨_, turn.trans (congrArg Host.Outcome.next (lateTurn_inFlight inFlight)), endSend_eq sent s.radio,
      detectorSaw_detect rfl rfl rfl, rfl⟩
  · intro idle
    exact turn.trans (congrArg Host.Outcome.next (lateTurn_idle idle))

/-! ### What the detector has seen (R171) -/

theorem sees_concat (level prev l : Bool) (pins : List Bool) :
    sees level prev (pins ++ [l]) = (sees level prev pins || sees level (pins.getLastD prev) [l]) := by
  induction pins generalizing prev with
  | nil => rfl
  | cons p ps ih =>
    rw [List.getLastD_cons]
    exact (congrArg (_ || ·) (ih p)).trans (Bool.or_assoc _ (sees level p ps) (sees level (ps.getLastD p) [l])).symm

theorem detectorSaw_refl (s : State) : DetectorSaw s s [] :=
  ⟨rfl, by rw [sees, Bool.and_false, Bool.or_false], by rw [sees, Bool.not_false, Bool.and_true], rfl⟩

section
variable {pending armed seen later seen' pending' armed' : Bool}

theorem pending_step (hp : pending' = (pending || (armed && seen))) (ha : armed' = (armed && !seen))
    (hs : seen' = (seen || later)) : (pending' || (armed' && later)) = (pending || (armed && seen')) := by
  subst hp ha hs
  revert pending armed seen later
  decide

theorem armed_step (ha : armed' = (armed && !seen)) (hs : seen' = (seen || later)) :
    (armed' && !later) = (armed && !seen') := by
  subst ha hs
  revert armed seen later
  decide

end

section
variable {s u : State} {pins : List Bool}

theorem DetectorSaw.level (h : DetectorSaw s u pins) : u.status.wakeLevel = s.status.wakeLevel := h.1

theorem DetectorSaw.pending (h : DetectorSaw s u pins) :
    u.status.wakePending = (s.status.wakePending || (s.status.wakeArmed && sees s.status.wakeLevel s.irqPrev pins)) :=
  h.2.1

theorem DetectorSaw.armed (h : DetectorSaw s u pins) :
    u.status.wakeArmed = (s.status.wakeArmed && !sees s.status.wakeLevel s.irqPrev pins) :=
  h.2.2.1

theorem DetectorSaw.prev (h : DetectorSaw s u pins) : u.irqPrev = pins.getLastD s.irqPrev := h.2.2.2

/-- What the detector of `s` sees once it saw `pins`, by its state in `u`. -/
theorem DetectorSaw.sees_concat (h : DetectorSaw s u pins) (l : Bool) :
    sees s.status.wakeLevel s.irqPrev (pins ++ [l]) =
      (sees s.status.wakeLevel s.irqPrev pins || sees u.status.wakeLevel u.irqPrev [l]) := by
  rw [h.level, h.prev, Machine.sees_concat]

/-- An evaluation adds the pin's present level to the levels seen. -/
theorem detectorSaw_concat (h : DetectorSaw s u pins) : DetectorSaw s (detect u) (pins ++ [irqLevel u.radio]) :=
  have last : DetectorSaw u (detect u) [irqLevel u.radio] := detectorSaw_detect rfl rfl rfl
  have seen := h.sees_concat (irqLevel u.radio)
  ⟨h.level, last.pending.trans (pending_step h.pending h.armed seen), last.armed.trans (armed_step h.armed seen),
    List.getLastD_concat.symm⟩

end

/-- With `irq_prev` at the pin level, an evaluation sees nothing new. -/
theorem detectorSaw_again {s u : State} {pins : List Bool} (h : DetectorSaw s u pins) (hu : Settled u) :
    DetectorSaw s (detect u) pins := by
  rwa [detect_of_settled hu]

/-! ### What the operations make of RADIO, `rlog` and STATUS (R150, R161, R166)

STATUS is given up to the detector's two bits, which `DetectorSaw` speaks of. -/

theorem status_completed (u : State) (t : Status) :
    withDetector (completed u).status t = doneStatus (withDetector u.status t) := rfl

theorem status_setListening (b : Bool) (u : State) (t : Status) :
    withDetector (setListening b u).status t = { withDetector u.status t with listening := b } := rfl

theorem status_setPing (b : Bool) (u : State) (t : Status) :
    withDetector (setPing b u).status t = { withDetector u.status t with ping := b } := rfl

theorem status_afterMode (m : LinkMode) (u : State) (t : Status) :
    withDetector (afterMode m u).status t = withDetector u.status t := rfl

section
variable (s : State)

theorem settled_afterSnapshot : Settled (afterSnapshot s) := rfl

@[simp] theorem afterSnapshot_rlog :
    (afterSnapshot s).rlog = s.rlog ++ [RadioEntry.rflags s.radio.fSent s.radio.fFailed s.radio.fReady] :=
  afterFlags_rlog s

@[simp] theorem afterSnapshot_radio : (afterSnapshot s).radio = flagsCleared s.radio := rfl

@[simp] theorem afterSnapshot_msg : (afterSnapshot s).msg = s.msg := rfl

@[simp] theorem afterSnapshot_draws : (afterSnapshot s).draws = s.draws := rfl

theorem status_afterSnapshot (t : Status) :
    withDetector (afterSnapshot s).status t =
      { withDetector s.status t with
        evSent := s.radio.fSent, evFailed := s.radio.fFailed, evReady := s.radio.fReady, ping := false } := rfl

end

section
variable (p : Payload) (n : Nat) (s : State)

theorem settled_received : Settled (received p n s) := rfl

@[simp] theorem received_rlog : (received p n s).rlog = s.rlog ++ [RadioEntry.rread p] :=
  afterRead_rlog p { s with draws := n }

@[simp] theorem received_radio : (received p n s).radio = { s.radio with rxq := s.radio.rxq.tail } := rfl

theorem status_received (t : Status) : withDetector (received p n s).status t = withDetector s.status t := rfl

end

section
variable (p : Payload) (d : SendDraws) (s : State)

theorem settled_afterTransmit : Settled (afterTransmit p d s) := rfl

@[simp] theorem afterTransmit_rlog : (afterTransmit p d s).rlog = s.rlog ++ [RadioEntry.rsend p d.outcome] :=
  afterSend_rlog p d (drawn (setListening false s))

@[simp] theorem afterTransmit_msg : (afterTransmit p d s).msg = s.msg :=
  afterSend_msg p d (drawn (setListening false s))

@[simp] theorem afterTransmit_radio : (afterTransmit p d s).radio = s.radio.sent d := rfl

theorem status_afterTransmit (t : Status) :
    withDetector (afterTransmit p d s).status t =
      { withDetector s.status t with listening := false, txOk := d.outcome == .ack } := rfl

end

section
variable (d : SendDraws) (s : State)

theorem settled_pingAnswered : Settled (pingAnswered d s) := rfl

@[simp] theorem pingAnswered_rlog :
    (pingAnswered d s).rlog = s.rlog ++ [RadioEntry.rmode .tx, .rsend pong d.outcome, .rmode .rx] := by
  simp only [pingAnswered, setListening_rlog, afterMode_rlog, afterTransmit_rlog, setPing_rlog, List.append_assoc,
    List.cons_append, List.nil_append]

@[simp] theorem pingAnswered_radio :
    (pingAnswered d s).radio = { ({ s.radio with mode := .tx } : Radio).sent d with mode := .rx } := rfl

theorem status_pingAnswered (t : Status) :
    withDetector (pingAnswered d s).status t =
      { withDetector s.status t with ping := true, txOk := d.outcome == .ack, listening := true } := by
  simp only [pingAnswered, status_setListening, status_afterMode, status_afterTransmit, status_setPing]

end

/-! ### What the detector has seen after each operation

RMODE and RREAD do not move the pin, and neither does the end of a step; RFLAGS and RSEND may. -/

section
variable {s u : State} {pins : List Bool}

theorem detectorSaw_completed (h : DetectorSaw s u pins) (hu : Settled u) : DetectorSaw s (completed u) pins :=
  detectorSaw_again h hu

theorem detectorSaw_afterMode (m : LinkMode) (h : DetectorSaw s u pins) (hu : Settled u) :
    DetectorSaw s (afterMode m u) pins :=
  detectorSaw_again h hu

theorem detectorSaw_received (p : Payload) (n : Nat) (h : DetectorSaw s u pins) (hu : Settled u) :
    DetectorSaw s (received p n u) pins :=
  detectorSaw_again h hu

theorem detectorSaw_afterSnapshot (s : State) : DetectorSaw s (afterSnapshot s) [irqLevel (flagsCleared s.radio)] :=
  detectorSaw_concat
    (u := { s with
      radio := flagsCleared s.radio
      rlog := s.rlog ++ [RadioEntry.rflags s.radio.fSent s.radio.fFailed s.radio.fReady] })
    (detectorSaw_refl s)

theorem detectorSaw_afterTransmit (p : Payload) (d : SendDraws) (h : DetectorSaw s u pins) :
    DetectorSaw s (afterTransmit p d u) (pins ++ [irqLevel (afterTransmit p d u).radio]) :=
  detectorSaw_concat
    (u := { drawn (setListening false u) with
      radio := u.radio.sent d, rlog := u.rlog ++ [RadioEntry.rsend p d.outcome] })
    h

/-- While a ping is answered, the pin moves only with the RSEND. -/
theorem detectorSaw_pingAnswered (d : SendDraws) (h : DetectorSaw s u pins) (hu : Settled u) :
    DetectorSaw s (pingAnswered d u) (pins ++ [irqLevel (pingAnswered d u).radio]) :=
  have asked : DetectorSaw s (afterMode .tx (setPing true u)) pins :=
    detectorSaw_afterMode (u := setPing true u) .tx h hu
  have sent := detectorSaw_afterTransmit (u := setListening false (afterMode .tx (setPing true u))) pong d asked
  detectorSaw_afterMode .rx sent (settled_afterTransmit ..)

end

/-! ### Operations that do not move the pin, with `irq_prev` at its level (R150) -/

theorem afterMode_of_settled {s : State} (m : LinkMode) (hs : Settled s) :
    afterMode m s = { s with radio := { s.radio with mode := m.mode }, rlog := s.rlog ++ [RadioEntry.rmode m] } :=
  detect_of_settled hs

theorem received_of_settled {s : State} (p : Payload) (n : Nat) (hs : Settled s) :
    received p n s =
      { s with
        radio := { s.radio with rxq := s.radio.rxq.tail }, rlog := s.rlog ++ [RadioEntry.rread p], draws := n
        msg := p } :=
  congrArg (fun u : State => { u with msg := p })
    (detect_of_settled
      (s := { s with
        radio := { s.radio with rxq := s.radio.rxq.tail }, rlog := s.rlog ++ [RadioEntry.rread p], draws := n })
      hs)

/-- `Transmit(p)` leaves listening mode first (R161). -/
def toTransmitting (s : State) : State := if s.radio.mode = .rx then afterMode .tx s else s

theorem toTransmitting_radio {s : State} (on : s.radio.mode ≠ .off) :
    (toTransmitting s).radio = { s.radio with mode := .tx } := by
  cases mode : s.radio.mode with
  | off => exact absurd mode on
  | rx => rw [toTransmitting, if_pos mode]; rfl
  | tx => rw [toTransmitting, if_neg (by simp [mode]), ← mode]

theorem toTransmitting_rlog (s : State) :
    (toTransmitting s).rlog = s.rlog ++ if s.radio.mode = .rx then [RadioEntry.rmode .tx] else [] := by
  rw [toTransmitting]
  split
  · exact afterMode_rlog .tx s
  · exact (List.append_nil _).symm

theorem toTransmitting_msg (s : State) : (toTransmitting s).msg = s.msg := by
  rw [toTransmitting]
  split <;> rfl

theorem status_toTransmitting (s : State) (t : Status) :
    withDetector (toTransmitting s).status t = withDetector s.status t := by
  rw [toTransmitting]
  split <;> rfl

theorem detectorSaw_toTransmitting {s : State} (hs : Settled s) : DetectorSaw s (toTransmitting s) [] := by
  rw [toTransmitting]
  split
  · exact detectorSaw_afterMode .tx (detectorSaw_refl s) hs
  · exact detectorSaw_refl s

/-- `Transmit(p)` of a configured transceiver that is on (R161). -/
theorem transmit_on {s : State} (p : Payload) (k : State → Answer) (cfg : s.radio.cfg = true)
    (on : s.radio.mode ≠ .off) :
    transmit p s k = k (afterTransmit p (Config.sendDraws s.draws) (toTransmitting s)) := by
  cases mode : s.radio.mode with
  | off => exact absurd mode on
  | rx => rw [transmit_rx p k cfg mode, toTransmitting, if_pos mode]
  | tx => rw [transmit_tx p k cfg mode, toTransmitting, if_neg (by simp [mode])]

/-- The payload RREAD gives: the queue's head, or drawn bytes from an empty queue (R150, R159). -/
def readPayload (s : State) : Payload := s.radio.rxq.headD (Config.emptyRead s.draws)

/-- The draw counter after RREAD. -/
def drawsAfterRead (s : State) : Nat := if s.radio.rxq.isEmpty then s.draws + 1 else s.draws

theorem readPayload_of_cons {s : State} {q : Payload} {r : List Payload} (queue : s.radio.rxq = q :: r) :
    readPayload s = q := by
  rw [readPayload, queue, List.headD_cons]

theorem radioRead_eq {s : State} (k : Payload → State → Answer) (cfg : s.radio.cfg = true) :
    radioRead s k = k (readPayload s) (afterRead (readPayload s) { s with draws := drawsAfterRead s }) := by
  cases queue : s.radio.rxq with
  | nil =>
    rw [radioRead_nil k cfg queue, readPayload, drawsAfterRead, queue]
    rfl
  | cons p rest =>
    rw [radioRead_cons k cfg queue, readPayload, drawsAfterRead, queue]
    rfl

/-- The state after RREAD, its payload in MSG (R158). -/
def afterReceive (s : State) : State := received (readPayload s) (drawsAfterRead s) s

/-! ### The gate (R153) -/

theorem gated_notInit {s : State} (k : State → Answer) (fresh : s.status.radioInit = false) :
    gated s k = .next (failed .notInit s) :=
  if_pos fresh

theorem gated_radioDown {s : State} (k : State → Answer) (init : s.status.radioInit = true)
    (down : s.status.radioFail = true) : gated s k = .next (failed .radioDown s) :=
  (if_neg (ne_false_of_eq_true init)).trans (if_pos down)

theorem exec_gated (s : State) :
    ∀ i ∈ [Instr.listen, .unlisten, .poll, .recv, .xmit], ∃ k, exec i s = gated s k :=
  List.forall_mem_cons.2 ⟨⟨_, show execListen s = _ from rfl⟩,
    List.forall_mem_cons.2 ⟨⟨_, show execUnlisten s = _ from rfl⟩,
      List.forall_mem_cons.2 ⟨⟨_, show execPoll s = _ from rfl⟩,
        List.forall_mem_cons.2 ⟨⟨_, show execRecv s = _ from rfl⟩,
          List.forall_mem_singleton.2 ⟨_, show execXmit s = _ from rfl⟩⟩⟩⟩⟩

/-- After a good RINIT the gate is open (10_state.md R34, R35). -/
theorem Inv.gateOpen {s : State} (hs : Inv s) (init : s.status.radioInit = true) (up : s.status.radioFail = false) :
    GateOpen s := by
  obtain ⟨-, -, good⟩ := hs.link
  exact ⟨init, up, (good init up).1⟩

theorem GateOpen.on {s : State} (gate : GateOpen s) (hs : Inv s) : s.radio.mode ≠ .off := (gate.linked hs.radio).on

/-! ### What each radio command answers behind its gate -/

section
variable {s : State}

theorem exec_listen_open (gate : GateOpen s) :
    exec .listen s = .next (completed (setListening true (afterMode .rx s))) := by
  change execListen s = _
  rw [execListen, gated_open _ gate.init gate.up, radioMode_configured _ _ gate.cfg, complete_eq]

theorem exec_unlisten_open (gate : GateOpen s) :
    exec .unlisten s = .next (completed (setListening false (afterMode .tx s))) := by
  change execUnlisten s = _
  rw [execUnlisten, gated_open _ gate.init gate.up, radioMode_configured _ _ gate.cfg, complete_eq]

theorem exec_poll_open (gate : GateOpen s) :
    exec .poll s =
      .next (completed (setEvents s.radio.fSent s.radio.fFailed s.radio.fReady (afterFlags s))) := by
  change execPoll s = _
  rw [execPoll, gated_open _ gate.init gate.up, radioFlags_configured _ gate.cfg, complete_eq]

theorem exec_recv_open (gate : GateOpen s) : exec .recv s = .next (completed (afterReceive s)) := by
  change execRecv s = _
  rw [execRecv, gated_open _ gate.init gate.up, radioRead_eq _ gate.cfg, complete_eq]
  rfl

theorem exec_xmit_open (gate : GateOpen s) (on : s.radio.mode ≠ .off) :
    exec .xmit s =
      .next (completed (afterTransmit s.txbuf (Config.sendDraws s.draws) (toTransmitting s))) := by
  change execXmit s = _
  rw [execXmit, gated_open _ gate.init gate.up, transmit_on _ _ gate.cfg on, complete_eq]

/-- EVENT behind its gate: the snapshot, and the rest by `f_ready` (R166). -/
theorem exec_event_open (gate : GateOpen s) :
    exec .event s =
      if s.radio.fReady then
        radioRead (afterSnapshot s) fun p u =>
          if isPing p then answerPing { u with msg := p } else complete { u with msg := p }
      else complete (afterSnapshot s) := by
  change execEvent s = _
  rw [execEvent, if_neg (by simp [gate.init]), if_neg (by simp [gate.up]), radioFlags_configured _ gate.cfg]
  rfl

theorem exec_event_idle (gate : GateOpen s) (idle : s.radio.fReady = false) :
    exec .event s = .next (completed (afterSnapshot s)) :=
  (exec_event_open gate).trans (if_neg (ne_true_of_eq_false idle))

/-- EVENT with data ready, once the payload is in MSG (R166). -/
def eventReceived (s : State) : State := afterReceive (afterSnapshot s)

/-- With data ready EVENT reads a payload (R166). -/
theorem exec_event_ready (gate : GateOpen s) (ready : s.radio.fReady = true) :
    exec .event s =
      if isPing (readPayload (afterSnapshot s)) then answerPing (eventReceived s) else complete (eventReceived s) :=
  ((exec_event_open gate).trans (if_pos ready)).trans
    (radioRead_eq (s := afterSnapshot s)
      (fun p u => if isPing p then answerPing { u with msg := p } else complete { u with msg := p }) gate.cfg)

theorem exec_event_other (gate : GateOpen s) (ready : s.radio.fReady = true)
    (other : ¬isPing (readPayload (afterSnapshot s)) = true) :
    exec .event s = .next (completed (eventReceived s)) :=
  (exec_event_ready gate ready).trans (if_neg other)

theorem exec_event_ping (gate : GateOpen s) (ready : s.radio.fReady = true)
    (ping : isPing (readPayload (afterSnapshot s)) = true) :
    exec .event s =
      .next (completed (pingAnswered (Config.sendDraws (drawsAfterRead (afterSnapshot s))) (eventReceived s))) :=
  ((exec_event_ready gate ready).trans (if_pos ping)).trans
    (answerPing_configured (s := eventReceived s) gate.cfg)

end

/-! ### The frame of the radio commands -/

/-- `t` is `s` but for MSG, RADIO and its log, STATUS, the latch, `irq_prev` and the draw counter. -/
def RadioFrame (s t : State) : Prop :=
  { t with
    msg := s.msg, rlog := s.rlog, radio := s.radio, status := s.status, latch := s.latch, irqPrev := s.irqPrev
    draws := s.draws } = s

section
variable {s u : State}

theorem RadioFrame.refl (s : State) : RadioFrame s s := rfl

theorem RadioFrame.completed (h : RadioFrame s u) : RadioFrame s (completed u) := h

theorem RadioFrame.afterMode (m : LinkMode) (h : RadioFrame s u) : RadioFrame s (afterMode m u) := h

theorem RadioFrame.received (p : Payload) (n : Nat) (h : RadioFrame s u) : RadioFrame s (received p n u) := h

theorem RadioFrame.afterSnapshot (h : RadioFrame s u) : RadioFrame s (afterSnapshot u) := h

theorem RadioFrame.afterTransmit (p : Payload) (d : SendDraws) (h : RadioFrame s u) :
    RadioFrame s (afterTransmit p d u) := h

theorem RadioFrame.pingAnswered (d : SendDraws) (h : RadioFrame s u) : RadioFrame s (pingAnswered d u) :=
  have asked : RadioFrame s (Machine.afterMode .tx (setPing true u)) := h
  have sent : RadioFrame s (Machine.afterTransmit pong d (setListening false (Machine.afterMode .tx (setPing true u)))) :=
    asked.afterTransmit pong d
  sent.afterMode .rx

theorem RadioFrame.toTransmitting (h : RadioFrame s u) : RadioFrame s (toTransmitting u) := by
  rw [Machine.toTransmitting]
  split
  · exact h.afterMode .tx
  · exact h

/-- The frame of a command that leaves MSG too. -/
theorem RadioFrame.of_msg (h : RadioFrame s u) (msg : u.msg = s.msg) :
    { u with
      rlog := s.rlog, radio := s.radio, status := s.status, latch := s.latch, irqPrev := s.irqPrev
      draws := s.draws } = s := by
  rwa [RadioFrame, ← msg] at h

/-- The frame of a command that leaves MSG and takes no draw. -/
theorem RadioFrame.of_msg_draws (h : RadioFrame s u) (msg : u.msg = s.msg) (draws : u.draws = s.draws) :
    { u with rlog := s.rlog, radio := s.radio, status := s.status, latch := s.latch, irqPrev := s.irqPrev } = s := by
  rwa [RadioFrame, ← msg, ← draws] at h

end

/-! ### The gate closed, and EVENT without a radio (R153, R167) -/

/-- Settles O33: the gate's two errors, and `failed_of_settled` gives what each leaves. -/
theorem radioCommandsAreGated : Obligations.RadioCommandsAreGated := by
  intro s i hs hi
  obtain ⟨k, gate⟩ := exec_gated s i hi
  exact ⟨fun fresh => (gate.trans (gated_notInit k fresh)).trans (congrArg Host.Outcome.next (failed_of_settled _ hs)),
    fun init down =>
      (gate.trans (gated_radioDown k init down)).trans (congrArg Host.Outcome.next (failed_of_settled _ hs))⟩

theorem exec_event_notInit {s : State} (fresh : s.status.radioInit = false) :
    exec .event s = .next (failed .notInit s) :=
  if_pos fresh

theorem exec_event_down {s : State} (init : s.status.radioInit = true) (down : s.status.radioFail = true) :
    exec .event s = .next (completed (setPing false (setEvents false false false s))) :=
  (if_neg (ne_false_of_eq_true init)).trans (if_pos down)

/-- Settles O41: EVENT's own gate, which writes the result bits alone after a failed RINIT. -/
theorem eventWithoutARadio : Obligations.EventWithoutARadio := by
  intro s hs
  have settled : Settled (setPing false (setEvents false false false s)) := hs
  exact ⟨fun fresh => (exec_event_notInit fresh).trans (congrArg Host.Outcome.next (failed_of_settled _ hs)),
    fun init down => (exec_event_down init down).trans (congrArg Host.Outcome.next (completed_of_settled settled))⟩

/-! ### RINIT, LISTEN, UNLISTEN, POLL and RECV -/

/-- Two witnesses at once. -/
theorem exists_two {α β : Sort _} {P : α → β → Prop} {a : α} {b : β} (h : P a b) : ∃ a b, P a b := ⟨a, b, h⟩

/-- Three witnesses at once. -/
theorem exists_three {α β γ : Sort _} {P : α → β → γ → Prop} {a : α} {b : β} {c : γ} (h : P a b c) :
    ∃ a b c, P a b c := ⟨a, b, c, h⟩

/-- RADIO_INIT set (R152). -/
def initMarked (s : State) : State := { s with status := { s.status with radioInit := true } }

/-- RINIT before its completion. -/
def radioStarted (s : State) : State := recordInit s.radio.present (afterCfg (initMarked s))

theorem detectorSaw_radioStarted (s : State) : DetectorSaw s (radioStarted s) [irqLevel s.radio.configured] :=
  have saw : DetectorSaw (initMarked s) (afterCfg (initMarked s)) [irqLevel s.radio.configured] :=
    detectorSaw_detect rfl rfl rfl
  saw

/-- Settles O32: the detector is evaluated after RCFG, and the end of the step sees nothing new. -/
theorem rinitConfiguresOrRecordsFailure : Obligations.RinitConfiguresOrRecordsFailure := by
  intro s hs first
  refine ⟨completed (radioStarted s), ((exec_rinit_cases s).resolve_left (by simp [first])).2, rfl, fun present => if_pos present,
    fun absent => if_neg (ne_true_of_eq_false absent), ?_,
    detectorSaw_completed (detectorSaw_radioStarted s) (settled_detect _), rfl, rfl⟩
  obtain ⟨up, -⟩ := hs.link.1 first
  have recorded : (s.status.radioFail || !s.radio.present) = !s.radio.present := by rw [up, Bool.false_or]
  exact congrArg (fun fail => withDetector { doneStatus s.status with
    radioInit := true, listening := s.radio.present, radioFail := fail } s.status) recorded

/-- LISTEN and UNLISTEN complete by one RMODE, which the detector does not see (R154, R155). -/
theorem completed_afterMode {s : State} (m : LinkMode) (b : Bool) (hs : Settled s) :
    completed (setListening b (afterMode m s)) = { s with
      radio := { s.radio with mode := m.mode }, rlog := s.rlog ++ [RadioEntry.rmode m]
      status := { doneStatus s.status with listening := b }, latch := none } :=
  (completed_of_settled (s := setListening b (afterMode m s)) (settled_detect _)).trans
    (congrArg (fun u => { setListening b u with status := doneStatus (setListening b u).status, latch := none })
      (afterMode_of_settled m hs))

/-- Settles O34: RMODE does not move the pin, so the detector adds nothing. -/
theorem listenAndUnlistenSetTheMode : Obligations.ListenAndUnlistenSetTheMode := by
  intro s hs init up
  have gate := hs.gateOpen init up
  exact ⟨(exec_listen_open gate).trans (congrArg Host.Outcome.next (completed_afterMode .rx true hs.settled)),
    (exec_unlisten_open gate).trans (congrArg Host.Outcome.next (completed_afterMode .tx false hs.settled))⟩

/-- Settles O35: the snapshot is written after the detector has seen the cleared flags. -/
theorem pollReadsAndClearsFlags : Obligations.PollReadsAndClearsFlags := by
  intro s hs init up
  refine ⟨_, exec_poll_open (hs.gateOpen init up), rfl, afterFlags_rlog s, rfl, ?_, rfl, rfl⟩
  exact detectorSaw_completed (u := setEvents s.radio.fSent s.radio.fFailed s.radio.fReady (afterFlags s))
    (detectorSaw_afterSnapshot s) (settled_detect _)

/-- RECV completes by one RREAD, which the detector does not see (R158). -/
theorem completed_afterReceive {s : State} (hs : Settled s) :
    completed (afterReceive s) = { s with
      radio := { s.radio with rxq := s.radio.rxq.tail }, rlog := s.rlog ++ [RadioEntry.rread (readPayload s)]
      draws := drawsAfterRead s, msg := readPayload s, status := doneStatus s.status, latch := none } :=
  (completed_of_settled (settled_received ..)).trans
    (congrArg (fun u => { u with status := doneStatus u.status, latch := none }) (received_of_settled _ _ hs))

/-- Settles O36: RREAD gives `readPayload`, and does not move the pin. -/
theorem recvMovesHeadToMsg : Obligations.RecvMovesHeadToMsg := by
  intro s hs init up
  have answer := exec_recv_open (hs.gateOpen init up)
  exact exists_two ⟨answer.trans (congrArg Host.Outcome.next (completed_afterReceive hs.settled)), rfl,
    fun _ _ => readPayload_of_cons, rfl, rfl, rfl, rfl, rfl⟩

/-! ### XMIT (R161 to R163) -/

theorem sendOf_sent (d : SendDraws) (r : Radio) : SendOf r d.outcome (r.sent d) :=
  ⟨d.earlierSent, d.keep, sent_eq d r⟩

theorem afterTransmit_toTransmitting_msg (p : Payload) (d : SendDraws) (s : State) :
    (afterTransmit p d (toTransmitting s)).msg = s.msg := by
  rw [afterTransmit_msg, toTransmitting_msg]

theorem completed_transmit_rlog (p : Payload) (d : SendDraws) (s : State) :
    (completed (afterTransmit p d (toTransmitting s))).rlog =
      s.rlog ++ (if s.radio.mode = .rx then [RadioEntry.rmode .tx] else []) ++ [RadioEntry.rsend p d.outcome] := by
  rw [completed_rlog, afterTransmit_rlog, toTransmitting_rlog]

theorem status_completed_transmit (p : Payload) (d : SendDraws) (s : State) :
    withDetector (completed (afterTransmit p d (toTransmitting s))).status s.status = { doneStatus s.status with
      listening := false, txOk := d.outcome == .ack } := by
  rw [status_completed, status_afterTransmit, status_toTransmitting]
  rfl

theorem completed_transmit_radio (p : Payload) (d : SendDraws) {s : State} (on : s.radio.mode ≠ .off) :
    (completed (afterTransmit p d (toTransmitting s))).radio = ({ s.radio with mode := .tx } : Radio).sent d :=
  congrArg (Radio.sent d) (toTransmitting_radio on)

theorem detectorSaw_transmit (p : Payload) (d : SendDraws) {s : State} (hs : Settled s) :
    DetectorSaw s (afterTransmit p d (toTransmitting s)) [irqLevel (afterTransmit p d (toTransmitting s)).radio] :=
  detectorSaw_afterTransmit p d (detectorSaw_toTransmitting hs)

/-- Settles O37: listening mode is left without moving the pin, and the detector sees it after the send. -/
theorem xmitSendsTxbufOnce : Obligations.XmitSendsTxbufOnce := by
  intro s hs init up
  have gate := hs.gateOpen init up
  have on := gate.on hs
  exact exists_two ⟨exec_xmit_open gate on, completed_transmit_rlog .., completed_transmit_radio _ _ on ▸ sendOf_sent _ _,
    status_completed_transmit .., detectorSaw_completed (detectorSaw_transmit _ _ hs.settled) (settled_afterTransmit ..),
    rfl, ((RadioFrame.refl s).toTransmitting.afterTransmit _ _).completed.of_msg
      (afterTransmit_toTransmitting_msg s.txbuf (Config.sendDraws s.draws) s)⟩

/-! ### EVENT (R165, R166) -/

theorem take_eq_map_getD {l : List Byte} {n : Nat} (long : n ≤ l.length) :
    l.take n = (List.range n).map (l.getD · 0#8) := by
  refine List.ext_getElem (by simpa using long) fun i hi _ => ?_
  rw [List.getElem_take, List.getElem_map, List.getElem_range, List.getD_eq_getElem]

theorem isPing_iff (p : Payload) : isPing p = true ↔ HoldsPing p := by
  have long : 6 ≤ p.toList.length := by rw [Vector.length_toList]; decide
  have bytes : p.toList.take 6 = [byteAt p 0, byteAt p 1, byteAt p 2, byteAt p 3, byteAt p 4, byteAt p 5] :=
    take_eq_map_getD long
  simp only [isPing, bytes, beq_iff_eq, List.cons.injEq, and_true]

theorem pong_toList : pong.toList = [0x21#8, 0x50#8, 0x4F#8, 0x4E#8, 0x47#8] ++ List.replicate 16 0x00#8 := rfl

theorem afterSnapshot_rlog_of_ready {s : State} {ready : Bool} (h : s.radio.fReady = ready) :
    (afterSnapshot s).rlog = s.rlog ++ [RadioEntry.rflags s.radio.fSent s.radio.fFailed ready] :=
  h ▸ afterSnapshot_rlog s

theorem status_afterSnapshot_of_ready {s : State} {ready : Bool} (h : s.radio.fReady = ready) :
    withDetector (afterSnapshot s).status s.status =
      { s.status with evSent := s.radio.fSent, evFailed := s.radio.fFailed, evReady := ready, ping := false } :=
  h ▸ status_afterSnapshot s s.status

/-- Settles O38: without data EVENT is the snapshot alone. -/
theorem eventWithoutDataOnlyPolls : Obligations.EventWithoutDataOnlyPolls := by
  intro s hs init up idle
  exact ⟨_, exec_event_idle (hs.gateOpen init up) idle, rfl, afterSnapshot_rlog_of_ready idle,
    congrArg doneStatus (status_afterSnapshot_of_ready idle),
    detectorSaw_completed (detectorSaw_afterSnapshot s) (settled_afterSnapshot s), rfl,
    (RadioFrame.refl s).afterSnapshot.completed.of_msg_draws (afterSnapshot_msg s) (afterSnapshot_draws s)⟩

theorem eventReceived_rlog {s : State} (ready : s.radio.fReady = true) :
    (eventReceived s).rlog =
      s.rlog ++ [RadioEntry.rflags s.radio.fSent s.radio.fFailed true, .rread (readPayload (afterSnapshot s))] :=
  (congrArg (· ++ [RadioEntry.rread _]) (afterSnapshot_rlog_of_ready ready)).trans (List.append_assoc ..)

theorem detectorSaw_eventReceived (s : State) :
    DetectorSaw s (eventReceived s) [irqLevel (flagsCleared s.radio)] :=
  detectorSaw_received _ _ (detectorSaw_afterSnapshot s) (settled_afterSnapshot s)

theorem eventPonged_rlog {s : State} (d : SendDraws) (ready : s.radio.fReady = true) :
    (completed (pingAnswered d (eventReceived s))).rlog =
      s.rlog ++ [RadioEntry.rflags s.radio.fSent s.radio.fFailed true, .rread (readPayload (afterSnapshot s)), .rmode .tx,
        .rsend pong d.outcome, .rmode .rx] := by
  rw [completed_rlog, pingAnswered_rlog, eventReceived_rlog ready, List.append_assoc]
  rfl

/-- Settles O39: EVENT completes after the RREAD, which leaves the pin where the RFLAGS put it. -/
theorem eventKeepsOtherPayloads : Obligations.EventKeepsOtherPayloads := by
  intro s hs init up ready
  have gate := hs.gateOpen init up
  by_cases ping : isPing (readPayload (afterSnapshot s)) = true
  · exact exists_two ⟨exec_event_ping gate ready ping, rfl, fun _ _ => readPayload_of_cons,
      fun other => absurd ((isPing_iff _).1 ping) other⟩
  · exact exists_two ⟨exec_event_other gate ready ping, rfl, fun _ _ => readPayload_of_cons, fun _ =>
      ⟨rfl, eventReceived_rlog ready, congrArg doneStatus (status_afterSnapshot_of_ready ready),
        detectorSaw_completed (detectorSaw_eventReceived s) (settled_received ..), rfl,
        ((RadioFrame.refl s).afterSnapshot.received _ _).completed⟩⟩

theorem detectorSaw_eventPonged (d : SendDraws) (s : State) :
    DetectorSaw s (pingAnswered d (eventReceived s))
      [irqLevel (flagsCleared s.radio), irqLevel (pingAnswered d (eventReceived s)).radio] :=
  detectorSaw_pingAnswered d (detectorSaw_eventReceived s) (settled_received ..)

theorem status_eventPonged (d : SendDraws) {s : State} (ready : s.radio.fReady = true) :
    withDetector (completed (pingAnswered d (eventReceived s))).status s.status = { doneStatus s.status with
      evSent := s.radio.fSent, evFailed := s.radio.fFailed, evReady := true, ping := true, txOk := d.outcome == .ack
      listening := true } := by
  rw [status_completed, status_pingAnswered, eventReceived, afterReceive, status_received,
    status_afterSnapshot_of_ready ready]
  rfl

/-- Settles O40: a ping is answered by one transmission of PONG between two mode switches. -/
theorem eventAnswersPing : Obligations.EventAnswersPing := by
  intro s hs init up ready
  have gate := hs.gateOpen init up
  by_cases ping : isPing (readPayload (afterSnapshot s)) = true
  · exact exists_two ⟨exec_event_ping gate ready ping, rfl, fun _ _ => readPayload_of_cons, fun _ =>
      exists_three ⟨pong_toList, eventPonged_rlog _ ready, sendOf_sent _ _, rfl, status_eventPonged _ ready,
        detectorSaw_completed (detectorSaw_eventPonged _ s) (settled_pingAnswered ..), rfl,
        (((RadioFrame.refl s).afterSnapshot.received _ _).pingAnswered _).completed⟩⟩
  · exact exists_two ⟨exec_event_other gate ready ping, rfl, fun _ _ => readPayload_of_cons,
      fun held => absurd ((isPing_iff _).2 held) ping⟩

/-! ### Who sends (R161, R162, R166) -/

/-- Whether an entry of `rlog` is a transmission. -/
def RadioEntry.isSend : RadioEntry → Bool
  | .rsend _ _ => true
  | _ => false

/-- The most transmissions a command issues. -/
def mostSends : Instr → Nat
  | .xmit => 1
  | .event => 1
  | _ => 0

/-- `t` has at most `n` transmissions more than `s` in its log, and the log of `s` before them. -/
def SendsAtMost (n : Nat) (s t : State) : Prop :=
  ∃ added, t.rlog = s.rlog ++ added ∧ (added.filter RadioEntry.isSend).length ≤ n

theorem SendsAtMost.of_same {n : Nat} {s t : State} (h : t.rlog = s.rlog) : SendsAtMost n s t :=
  ⟨[], h.trans (List.append_nil _).symm, Nat.zero_le n⟩

theorem SendsAtMost.trans {m n : Nat} {s t u : State} (h : SendsAtMost m s t) (k : SendsAtMost n t u) :
    SendsAtMost (m + n) s u := by
  obtain ⟨before, hlog, hmost⟩ := h
  obtain ⟨after, klog, kmost⟩ := k
  refine ⟨before ++ after, by rw [klog, hlog, List.append_assoc], ?_⟩
  rw [List.filter_append, List.length_append]
  exact Nat.add_le_add hmost kmost

theorem sendsAtMost_afterMode (m : LinkMode) (s : State) : SendsAtMost 0 s (afterMode m s) :=
  ⟨[.rmode m], rfl, Nat.le_refl 0⟩

theorem sendsAtMost_afterSnapshot (s : State) : SendsAtMost 0 s (afterSnapshot s) :=
  ⟨_, afterSnapshot_rlog s, Nat.le_refl 0⟩

theorem sendsAtMost_received (p : Payload) (n : Nat) (s : State) : SendsAtMost 0 s (received p n s) :=
  ⟨_, received_rlog p n s, Nat.le_refl 0⟩

theorem sendsAtMost_afterTransmit (p : Payload) (d : SendDraws) (s : State) : SendsAtMost 1 s (afterTransmit p d s) :=
  ⟨_, afterTransmit_rlog p d s, Nat.le_refl 1⟩

theorem sendsAtMost_pingAnswered (d : SendDraws) (s : State) : SendsAtMost 1 s (pingAnswered d s) :=
  ⟨_, pingAnswered_rlog d s, Nat.le_refl 1⟩

theorem Performed.sendsAtMost {s u : State} {i : Instr} (h : Performed s i u) : SendsAtMost (mostSends i) s u := by
  induction h with
  | rinit => exact ⟨[.rcfg _], rfl, Nat.le_refl 0⟩
  | listen => exact sendsAtMost_afterMode .rx s
  | unlisten => exact sendsAtMost_afterMode .tx s
  | poll => exact sendsAtMost_afterSnapshot s
  | recv _ p n => exact sendsAtMost_received p n s
  | xmit _ _ d => exact sendsAtMost_afterTransmit s.txbuf d s
  | xmitListening _ d => exact (sendsAtMost_afterMode .tx s).trans (sendsAtMost_afterTransmit s.txbuf d _)
  | event => exact (sendsAtMost_afterSnapshot s).trans (.of_same (n := 1) rfl)
  | eventRead _ p n =>
    exact (sendsAtMost_afterSnapshot s).trans ((sendsAtMost_received p n _).trans (.of_same (n := 1) rfl))
  | eventPing _ p n d =>
    exact (sendsAtMost_afterSnapshot s).trans ((sendsAtMost_received p n _).trans (sendsAtMost_pingAnswered d _))
  | dinit => exact .of_same (by rw [sendInitSeq_eq])
  | _ => exact .of_same rfl

/-- Settles O42: a command that fails logs nothing, and one that completes what its work does. -/
theorem onlyXmitAndEventSend : Obligations.OnlyXmitAndEventSend := by
  intro s t i e
  have sends : SendsAtMost (mostSends i) s t := by
    rcases exec_ends e with ⟨c, -, rfl⟩ | ⟨u, work, rfl⟩
    · exact .of_same rfl
    · exact work.sendsAtMost
  exact sends

/-! ### The wake detector (R170, R171) -/

/-- Settles O43: ARMWAKE leaves `irq_prev` at the pin level, so the end of its step sees nothing. -/
theorem armwakeArmsTheDetector : Obligations.ArmwakeArmsTheDetector := by
  intro s level
  exact (exec_armwake level s).trans (congrArg Host.Outcome.next (completed_of_settled rfl))

/-- The detector is disarmed in `t`, and pending only if it was in `s`. -/
def StaysSilent (s t : State) : Prop :=
  t.status.wakeArmed = false ∧ (t.status.wakePending = true → s.status.wakePending = true)

section
variable {s u : State}

theorem StaysSilent.disarmed (h : StaysSilent s u) : u.status.wakeArmed = false := h.1

/-- A disarmed detector does not fire (R171). -/
theorem staysSilent_detect (h : StaysSilent s u) : StaysSilent s (detect u) := by
  have quiet : detectorFires u = false := by rw [detectorFires, h.disarmed, Bool.false_and, Bool.false_and]
  have kept : (detect u).status.wakePending = u.status.wakePending := by
    rw [detect_wakePending, quiet, Bool.or_false]
  exact ⟨Bool.and_eq_false_imp.2 fun armed => absurd (h.disarmed.symm.trans armed) Bool.false_ne_true,
    fun pending => h.2 (kept.symm.trans pending)⟩

theorem StaysSilent.ite {c : Prop} [Decidable c] {v : State} (hu : StaysSilent s u) (hv : StaysSilent s v) :
    StaysSilent s (if c then u else v) := by
  split
  · exact hu
  · exact hv

theorem staysSilent_afterMode (m : LinkMode) (h : StaysSilent s u) : StaysSilent s (afterMode m u) :=
  staysSilent_detect h

theorem staysSilent_afterSnapshot (h : StaysSilent s u) : StaysSilent s (afterSnapshot u) := staysSilent_detect h

theorem staysSilent_received (p : Payload) (n : Nat) (h : StaysSilent s u) : StaysSilent s (received p n u) :=
  staysSilent_detect h

theorem staysSilent_afterTransmit (p : Payload) (d : SendDraws) (h : StaysSilent s u) :
    StaysSilent s (afterTransmit p d u) := staysSilent_detect h

theorem staysSilent_pingAnswered (d : SendDraws) (h : StaysSilent s u) : StaysSilent s (pingAnswered d u) :=
  have asked := staysSilent_afterMode (u := setPing true u) .tx h
  have sent := staysSilent_afterTransmit (u := setListening false (afterMode .tx (setPing true u))) pong d asked
  staysSilent_afterMode .rx sent

end

/-- No command's work but ARMWAKE's wakes a disarmed detector. -/
theorem Performed.staysSilent {s u : State} {i : Instr} (h : Performed s i u) (hi : ∀ level, i ≠ .armwake level)
    (disarmed : s.status.wakeArmed = false) : StaysSilent s u := by
  have start : StaysSilent s s := ⟨disarmed, id⟩
  induction h with
  | armwake level => exact absurd rfl (hi level)
  | dinit => rw [sendInitSeq_eq]; exact start
  | rinit => exact staysSilent_detect start
  | listen => exact staysSilent_afterMode .rx start
  | unlisten => exact staysSilent_afterMode .tx start
  | poll => exact staysSilent_detect start
  | recv _ p n => exact staysSilent_received p n start
  | xmit _ _ d => exact staysSilent_afterTransmit s.txbuf d start
  | xmitListening _ d => exact staysSilent_afterTransmit s.txbuf d (staysSilent_afterMode .tx start)
  | event => exact staysSilent_afterSnapshot start
  | eventRead _ p n => exact staysSilent_received p n (staysSilent_afterSnapshot start)
  | eventPing _ p n d =>
    exact staysSilent_pingAnswered d (staysSilent_received p n (staysSilent_afterSnapshot start))
  | _ => exact start

theorem exec_staysSilent {s t : State} {i : Instr} (hi : ∀ level, i ≠ .armwake level)
    (disarmed : s.status.wakeArmed = false) (e : exec i s = .next t) : StaysSilent s t := by
  rcases exec_ends e with ⟨c, -, rfl⟩ | ⟨u, work, rfl⟩
  · have start : StaysSilent s s := ⟨disarmed, id⟩
    exact staysSilent_detect start
  · exact staysSilent_detect (work.staysSilent hi disarmed)

theorem staysSilent_offerCommand {s : State} (v : Word) (h : StaysSilent s s) : StaysSilent s (offerCommand v s) := by
  rw [offerCommand]
  split
  · exact h
  · split <;> exact h

/-- A host write arms nothing, and clears WAKE_PENDING at most (10_state.md R23). -/
theorem staysSilent_regWrite {s : State} (r : HostReg) (v : Word) (h : StaysSilent s s) :
    StaysSilent s (regWrite r v s) := by
  cases r with
  | cmd => exact staysSilent_offerCommand v h
  | status => exact ⟨h.disarmed, fun pending => (Bool.and_eq_true_iff.1 pending).1⟩
  | text j => exact .ite (c := s.status.busy = true) h h
  | txbuf j => exact .ite (c := s.status.busy = true) h h
  | _ => exact h

theorem staysSilent_hostRead {s : State} (width : Nat) (off : Offset) (h : StaysSilent s s) :
    StaysSilent s (hostRead width off s) := by
  cases mapped : accessed width off with
  | none => rw [hostRead_refused s mapped]; exact h
  | some r => rw [hostRead_mapped s mapped]; exact staysSilent_detect h

theorem staysSilent_hostWrite {s : State} (width : Nat) (off : Offset) (v : Word) (h : StaysSilent s s) :
    StaysSilent s (hostWrite width off v s) := by
  cases mapped : accessed width off with
  | none => rw [hostWrite_refused v s mapped]; exact h
  | some r => rw [hostWrite_mapped v s mapped]; exact staysSilent_detect (staysSilent_regWrite r v h)

theorem staysSilent_arrivalTurn {s : State} (p : Payload) (h : StaysSilent s s) : StaysSilent s (arrivalTurn p s) :=
  .ite (staysSilent_detect h) h

theorem staysSilent_lateTurn {s : State} (sent : Bool) (h : StaysSilent s s) : StaysSilent s (lateTurn sent s) :=
  .ite (staysSilent_detect h) h

theorem staysSilent_pinTurn {s : State} (level : Bool) (h : StaysSilent s s) : StaysSilent s (pinTurn level s) :=
  .ite h (staysSilent_detect h)

/-- Every turn but the engine's leaves a disarmed detector silent. -/
theorem takeTurn_staysSilent {u : Turn} {s t : State} (engine : u ≠ .engine) (disarmed : s.status.wakeArmed = false)
    (e : takeTurn u s = .next t) : StaysSilent s t :=
  have start : StaysSilent s s := ⟨disarmed, id⟩
  takeTurn_elim engine e (staysSilent_hostRead · · start) (staysSilent_hostWrite · · · start)
    (staysSilent_arrivalTurn · start) (staysSilent_lateTurn · start) (staysSilent_pinTurn · start) ⟨rfl, nofun⟩

/-- WAKE_PENDING is not set, and the detector is armed only by the engine at ARMWAKE: the turn is `u`. -/
def WakesByArmwake (u : Turn) (s t : State) : Prop :=
  (t.status.wakePending = true → s.status.wakePending = true) ∧
    (t.status.wakeArmed = true →
      u = .engine ∧ s.status.busy = true ∧ ∃ l level, s.latch = some l ∧ l.word = encode (.armwake level))

theorem StaysSilent.wakesByArmwake {s t : State} (h : StaysSilent s t) (u : Turn) : WakesByArmwake u s t :=
  ⟨h.2, fun armed => absurd (h.disarmed.symm.trans armed) Bool.false_ne_true⟩

/-- The engine's turn leaves a disarmed detector silent, or performs ARMWAKE, which clears WAKE_PENDING as it arms. -/
theorem engineTurn_wakesByArmwake {s t : State} (disarmed : s.status.wakeArmed = false)
    (e : engineTurn s = .next t) : WakesByArmwake .engine s t := by
  rcases engineTurn_next e with ⟨-, rfl⟩ | ⟨busy, l, i, latched, legal, performed⟩
  · exact StaysSilent.wakesByArmwake ⟨disarmed, id⟩ _
  · by_cases arming : ∃ level, i = .armwake level
    · obtain ⟨level, rfl⟩ := arming
      have cleared : t.status.wakePending = false :=
        congrArg (·.status.wakePending) (Host.Outcome.next.inj (performed.symm.trans (armwakeArmsTheDetector s level)))
      exact ⟨fun pending => absurd (cleared.symm.trans pending) Bool.false_ne_true,
        fun _ => ⟨rfl, busy, l, level, latched, encode_of_decode legal⟩⟩
    · exact (exec_staysSilent (not_exists.1 arming) disarmed performed).wakesByArmwake _

theorem takeTurn_wakesByArmwake {u : Turn} {s t : State} (disarmed : s.status.wakeArmed = false)
    (e : takeTurn u s = .next t) : WakesByArmwake u s t := by
  by_cases engine : u = .engine
  · subst engine
    exact engineTurn_wakesByArmwake disarmed e
  · exact (takeTurn_staysSilent engine disarmed e).wakesByArmwake u

theorem step_of_nil {s : State} (hin : s.inputs = []) : step s = .next s := by
  rw [step, hin]

/-- Settles O44: every turn stays silent but the engine's at ARMWAKE. -/
theorem disarmedDetectorStaysSilent : Obligations.DisarmedDetectorStaysSilent := by
  intro s t e disarmed
  cases hin : s.inputs with
  | nil =>
    obtain rfl := Host.Outcome.next.inj ((step_of_nil hin).symm.trans e)
    exact ⟨id, fun armed => absurd (disarmed.symm.trans armed) Bool.false_ne_true⟩
  | cons u rest =>
    obtain ⟨kept, arms⟩ : WakesByArmwake u s t :=
      takeTurn_wakesByArmwake (s := { s with inputs := rest }) disarmed ((step_of_inputs hin).symm.trans e)
    refine ⟨kept, fun armed => ?_⟩
    obtain ⟨rfl, busy, l, level, latched, word⟩ := arms armed
    exact ⟨rest, l, level, rfl, busy, latched, word⟩

/-! ### Progress (R150; 10_state.md R25; 30_encoding.md R90) -/

/-- The answer is a next state. -/
def Answers (a : Answer) : Prop := ∃ t, a = .next t

theorem Answers.of_eq {a : Answer} {t : State} (h : a = .next t) : Answers a := ⟨t, h⟩

/-- A gated command answers if it does so behind its gate. -/
theorem exec_gated_answers {s : State} {i : Instr} (hs : Inv s)
    (hi : i ∈ [Instr.listen, .unlisten, .poll, .recv, .xmit]) (opened : GateOpen s → Answers (exec i s)) :
    Answers (exec i s) := by
  obtain ⟨k, gate⟩ := exec_gated s i hi
  cases init : s.status.radioInit
  · exact .of_eq (gate.trans (gated_notInit k init))
  cases down : s.status.radioFail
  · exact opened (hs.gateOpen init down)
  · exact .of_eq (gate.trans (gated_radioDown k init down))

/-- EVENT answers in every state of the invariant (R166, R167). -/
theorem exec_event_answers {s : State} (hs : Inv s) : Answers (exec .event s) := by
  cases init : s.status.radioInit
  · exact .of_eq (exec_event_notInit init)
  cases down : s.status.radioFail
  · have gate := hs.gateOpen init down
    cases ready : s.radio.fReady
    · exact .of_eq (exec_event_idle gate ready)
    · by_cases ping : isPing (readPayload (afterSnapshot s)) = true
      · exact .of_eq (exec_event_ping gate ready ping)
      · exact .of_eq (exec_event_other gate ready ping)
  · exact .of_eq (exec_event_down init down)

theorem Answers.of_or {a : Answer} {p q : Prop} {t u : State} (h : (p ∧ a = .next t) ∨ (q ∧ a = .next u)) : Answers a :=
  h.elim (fun h => .of_eq h.2) fun h => .of_eq h.2

/-- With a command latched, every command answers in every state of the invariant: the gate ensures each radio
operation's precondition. -/
theorem exec_answers {s : State} {l : Latch} (hs : Inv s) (latched : s.latch = some l) (i : Instr) :
    Answers (exec i s) := by
  cases i with
  | nop => exact .of_eq (exec_nop s)
  | clear => exact .of_eq (exec_clear s)
  | pset on => exact .of_eq (exec_pset on latched)
  | pget => exact .of_eq (exec_pget latched)
  | line on => exact .of_eq (exec_line on latched)
  | glyph => exact .of_eq (exec_glyph latched)
  | text src => exact .of_eq (exec_text src latched)
  | dinit => exact .of_or (exec_dinit_cases s)
  | push => exact .of_or (exec_push_cases s)
  | rinit => exact .of_or (exec_rinit_cases s)
  | listen => exact exec_gated_answers hs (by decide) fun gate => .of_eq (exec_listen_open gate)
  | unlisten => exact exec_gated_answers hs (by decide) fun gate => .of_eq (exec_unlisten_open gate)
  | poll => exact exec_gated_answers hs (by decide) fun gate => .of_eq (exec_poll_open gate)
  | recv => exact exec_gated_answers hs (by decide) fun gate => .of_eq (exec_recv_open gate)
  | xmit => exact exec_gated_answers hs (by decide) fun gate => .of_eq (exec_xmit_open gate (gate.on hs))
  | event => exact exec_event_answers hs
  | armwake level => exact .of_eq (exec_armwake level s)

/-- While BUSY a legal command is latched (10_state.md R25; 30_encoding.md R90). -/
theorem Inv.latched_legal {s : State} (hs : Inv s) (busy : s.status.busy = true) :
    ∃ l i, s.latch = some l ∧ decode l.word = .ok i := by
  obtain ⟨shown, -⟩ := hs.latch
  rw [if_pos busy, Option.map_eq_some_iff] at shown
  obtain ⟨l, latched, word⟩ := shown
  obtain ⟨i, legal⟩ := (isCommand_iff s.cmd).1 hs.cmd
  exact ⟨l, i, latched, word ▸ legal⟩

theorem engineTurn_answers {s : State} (hs : Inv s) : Answers (engineTurn s) := by
  cases busy : s.status.busy
  · exact .of_eq (engineTurn_idle busy)
  · obtain ⟨l, i, latched, legal⟩ := hs.latched_legal busy
    rw [engineTurn_command busy latched legal]
    exact exec_answers hs latched i

theorem takeTurn_answers {s : State} (hs : Inv s) (u : Turn) : Answers (takeTurn u s) := by
  cases u with
  | engine => exact engineTurn_answers hs
  | _ => exact .of_eq rfl

/-- Settles O53: only the engine's turn could stop, and `engineTurn_answers` says it does not. -/
theorem noStepStops : Obligations.NoStepStops := by
  intro s hs
  cases hin : s.inputs with
  | nil => exact ⟨s, step_of_nil hin⟩
  | cons u rest => exact step_of_inputs hin ▸ takeTurn_answers (hs.of_unread ..) u

end Sys2Proof.Machine

/-! Drawing a line and taking it back (70_reset_and_hazards.md R233), and a reset of the block alone (R220, R222). -/

namespace Sys2Proof.Machine

/-! ### A line and its erasure (40_renderer.md R114) -/

/-- A pixel after LINE, settled or not when it began: the end of the step writes no byte of FB. -/
theorem pixelBit_of_exec_line {s t : State} {l : Latch} {on : Bool} {x y : Nat} (latched : s.latch = some l)
    (e : exec (.line on) s = .next t) (hx : x < 128) (hy : y < 32) :
    pixelBit t x y =
      if ((x : Int), (y : Int)) ∈ linePoints l.a0.toInt l.a1.toInt l.a2.toInt l.a3.toInt then on
      else pixelBit s x y := by
  rw [exec_line on latched] at e
  cases e
  rw [pixelBit_eq_getPix hx hy, pixelBit_eq_getPix hx hy, completed_fb, getPix_setCells, inRange_nat hx hy]
  simp [Latch.x0, Latch.y0, Latch.x1, Latch.y1, coordinate]

/-- Settles O24: both lines have the same cells, so the erasing one overwrites what the drawing one set and no more. -/
theorem lineIsErasedBySameLine : Obligations.LineIsErasedBySameLine := by
  intro s l latched
  obtain ⟨t, drawing⟩ : ∃ t, exec (.line true) s = .next t := ⟨_, exec_line true latched⟩
  have erasing := exec_line (s := { t with latch := some l }) false rfl
  refine ⟨t, _, drawing, erasing, fun x y hx hy => ?_⟩
  have drawn := pixelBit_of_exec_line latched drawing hx hy
  have erased := pixelBit_of_exec_line rfl erasing hx hy
  refine ⟨fun cell => ?_, fun other => ?_⟩
  · rw [if_pos cell] at drawn erased
    exact ⟨drawn, erased⟩
  · rw [if_neg other] at drawn erased
    exact ⟨drawn, erased.trans drawn⟩

/-! ### A reset of the block alone (R220, R222; 10_state.md R45) -/

theorem statusWord_reset : statusWord Status.reset = 0#32 := rfl

theorem errWord_clear : errWord Err.clear = 0#32 := rfl

/-- Settles O50: the registers' values stand in `blockReset`, STATUS, ERR and FB[0] by their own lemmas. -/
theorem blockResetLeavesTheDevices : Obligations.BlockResetLeavesTheDevices := by
  intro s rest hin
  exact ⟨blockReset { s with inputs := rest }, step_of_inputs hin, rfl, rfl, rfl, rfl, rfl, statusWord_reset,
    errWord_clear, rfl, byteAt_fbAtReset_zero _, rfl, rfl, rfl, rfl, rfl, rfl, rfl, rfl⟩

end Sys2Proof.Machine
